-- ==== Sys2Proof/Syntax.lean ====
section
/-! DEFINITION. The commands of the block: one constructor per row of spec/opcode_table.json (30_encoding.md R103).
A command word carries no operand (R102), so no constructor has a field. -/

namespace Sys2Proof

/-- The seven commands of R103, the source's "closed enumerated variant". -/
inductive Instr where
  /-- NOP, word 0x00000000 (R186). -/
  | nop
  /-- TBLGEN, word 0x00000001 (R125). -/
  | tblgen
  /-- FPRINT, word 0x00000002 (R127). -/
  | fprint
  /-- CLASSIFY, word 0x00000003 (R142). -/
  | classify
  /-- CKSUM, word 0x00000004 (R157). -/
  | cksum
  /-- HDRFIX, word 0x00000005 (R183). -/
  | hdrfix
  /-- FIX, word 0x00000006 (R188). -/
  | fix
  deriving DecidableEq, Repr

end Sys2Proof
end

