-- ==== Sys2Proof/Word.lean ====
section
/-! DEFINITION. The two data widths of the block (00_scope.md R9, R10): the 32-bit word `u32` of every register
and command, and the byte `u8` of the image. All values are unsigned. -/

namespace Sys2Proof

/-- `u32` (R10): a register, a command word, an image address, a checksum accumulator. -/
abbrev Word := BitVec 32

/-- `u8` (R10): one byte of the image. -/
abbrev Byte := BitVec 8

end Sys2Proof
end

