-- ==== Sys2Proof/WellFormed.lean ====
section
/-! DEFINITION. Well-formedness. A command has no operand to check (R102), so every `Instr` is well formed; the two
checks the spec makes are on command WORDS (R104): the field Z must be zero and the selector OP below 7. -/

namespace Sys2Proof

/-- Every command is well formed: it has no immediate and no register field (R102). -/
def Instr.wf : Instr → Bool
  | .nop => true
  | .tblgen => true
  | .fprint => true
  | .classify => true
  | .cksum => true
  | .hdrfix => true
  | .fix => true

/-- R101: bits 31:4 of a command word are zero. -/
def wordZeroField (w : Word) : Bool := w.extractLsb' 4 28 == 0#28

/-- R103, R104: bits 3:0 of a command word select one of the seven operations. -/
def wordKnownOp (w : Word) : Bool := decide ((w.extractLsb' 0 4).toNat < 7)

/-- R104: a command word is legal when both checks pass. -/
def wordLegal (w : Word) : Bool := wordZeroField w && wordKnownOp w

end Sys2Proof
end

