-- ==== Sys2Proof/Decode.lean ====
section
/-! DEFINITION. The decoder of R106, total on every 32-bit word and rejecting by name, and the encoder of R106. -/

namespace Sys2Proof

/-- Why a command word is illegal (R104). Both reasons complete with the one error code ILLEGAL_CMD (R201). -/
inductive Illegal where
  /-- `w[31:4] ≠ 0`. -/
  | zNotZero
  /-- `w[31:4] = 0` and `w[3:0] >= 0x7`. -/
  | opUnknown
  deriving DecidableEq, Repr

/-- Field OP, bits 3:0 of CMD32 (R101). -/
def opField (w : Word) : BitVec 4 := w.extractLsb' 0 4

/-- Field Z, bits 31:4 of CMD32 (R101). -/
def zField (w : Word) : BitVec 28 := w.extractLsb' 4 28

/-- The operation that a selector OP names (R103), where one does. -/
def decodeOp (op : BitVec 4) : Except Illegal Instr :=
  match op.toNat with
  | 0 => .ok .nop
  | 1 => .ok .tblgen
  | 2 => .ok .fprint
  | 3 => .ok .classify
  | 4 => .ok .cksum
  | 5 => .ok .hdrfix
  | 6 => .ok .fix
  | _ => .error .opUnknown

/-- The decode function of R106. -/
def decode (w : Word) : Except Illegal Instr :=
  if zField w ≠ 0#28 then .error .zNotZero else decodeOp (opField w)

/-- The selector OP of a command (R103). -/
def opOf : Instr → BitVec 4
  | .nop => 0x0
  | .tblgen => 0x1
  | .fprint => 0x2
  | .classify => 0x3
  | .cksum => 0x4
  | .hdrfix => 0x5
  | .fix => 0x6

/-- The encoder of R106: the zero-extended selector. -/
def encode (i : Instr) : Word := 0#28 ++ opOf i

/-- The command word made of an `nbits`-bit number `w` (the bits above `nbits` are zero). There is one length, 32
bits (R100), so the bits number as in spec/opcode_table.json. -/
def tableWord (nbits w : Nat) : Word := BitVec.ofNat 32 (w % 2 ^ nbits)

/-- The command the decoder reads from an opcode-table word; a word of more than 32 bits is none (R100). -/
def decodeTableWord (nbits w : Nat) : Option Instr :=
  if nbits ≤ 32 then
    match decode (tableWord nbits w) with
    | .ok i => some i
    | .error _ => none
  else none

end Sys2Proof
end

