-- ==== Sys2Proof/Config.lean ====
section
/-! DEFINITION. What the spec leaves free or an implementation fixes. The free values have no body: nothing can
be proved about the value they take. The algorithm's constants (R7) stand in `Machine/Params.lean`. -/

namespace Sys2Proof.Config

/-- The value returned by the `n`-th free draw of a whole register: a read of FP, CK0, CK1, ST0, ST1, ACC1-ACC6
or ID while BUSY = 1 (10_state.md R46; 93 I3). Log entry 4. -/
opaque freeWord : Nat → Word

/-- The `n`-th free choice between an old and a new value (`true`: the new one): a header byte read while BUSY = 1
(20_memory.md R87; 93 I4), a header byte left by a reset while BUSY = 1 (70_reset_and_hazards.md R231; 93 I5), and a
TABLE read during a build (R46). Log entry 5. -/
opaque freeBit : Nat → Bool

/-- What an image byte that nothing has written reads as. DESIGN CHOICE, unsafe (log entry 2): the spec makes the
image a total map (20_memory.md R71) and gives it no initial contents. -/
def unlistedByte : Byte := 0

/-- What each entry of the table storage holds after reset. DESIGN CHOICE, unsafe (log entry 3): "unspecified, and
unobservable while TV = 0" (R230). -/
def resetTableWord : Word := 0

end Sys2Proof.Config
end

