-- ==== Sys2Proof/Machine/Params.lean ====
section
/-! DEFINITION. The fixed constants of the algorithm (00_scope.md R7). Addresses and lengths are natural numbers,
because the spec checks them in exact arithmetic (20_memory.md R79). -/

namespace Sys2Proof

/-- The reflected CRC-32 polynomial. -/
def Config.poly : Word := 0xEDB88320

/-- The fingerprint accumulator's initial value, all ones. -/
def Config.crcInit : Word := 0xFFFFFFFF

/-- Fingerprint window start: the end of the 0x40-byte header. -/
def Config.bcOff : Nat := 0x40

/-- BC_LEN, the fingerprint window length. R8: defined once, every use derived from it. -/
def Config.bcLen : Nat := 0xF00

/-- Checksum window start. -/
def Config.ckStart : Nat := 0x1000

/-- Checksum window length in bytes. -/
def Config.ckLen : Nat := 0x100000

/-- Mixing iterations, CK_LEN / 4. -/
def Config.ckIters : Nat := Config.ckLen / 4

/-- CIC-6105 auxiliary word base. -/
def Config.auxBase : Nat := Config.bcOff + 0x0710

/-- Offset of stored checksum word 0. -/
def Config.hdr0Off : Nat := 0x10

/-- Offset of stored checksum word 1. -/
def Config.hdr1Off : Nat := 0x14

/-- IMG_MIN: the least image length that holds every window (90_conflicts.md C1). -/
def Config.imgMin : Nat := Config.ckStart + Config.ckLen

end Sys2Proof
end

