-- ==== Sys2Proof/Machine/State.lean ====
section
/-! DEFINITION. The state of the block (10_state.md R50), the host-owned image beside it (20_memory.md R71), the
model's own record of the host's moves and readings, the reasons a step can stop, and the state after reset (R230). -/

namespace Sys2Proof.Machine

/-- The five boot-code variants (00_scope.md R15). -/
inductive Cic where
  | cic6101 | cic6102 | cic6103 | cic6105 | cic6106
  deriving DecidableEq, Repr

/-- The identity set of R34: UNKNOWN or one of the five. Its codes 0..5 are in `Machine/Operands.lean`; codes 6 and 7
are not stored (R35), so they have no constructor. -/
inductive Identity where
  | unknown
  | known (c : Cic)
  deriving DecidableEq, Repr

/-- STATUS.ERR (R201); codes 5-15 are never produced. -/
inductive ErrCode where
  | none | illegalCmd | bounds | unidentified | noChecksum
  deriving DecidableEq, Repr

/-- STATUS.RES (R202). -/
inductive ResCode where
  | none | fixed | alreadyCorrect | unidentified
  deriving DecidableEq, Repr

/-- The six accumulators acc[1]..acc[6] (R40). -/
structure Acc where
  a1 : Word
  a2 : Word
  a3 : Word
  a4 : Word
  a5 : Word
  a6 : Word
  deriving DecidableEq, Repr

/-- All six accumulators equal (R152). -/
def Acc.all (w : Word) : Acc := ⟨w, w, w, w, w, w⟩

/-- What happens next at the block's boundary: one access of the host (R16, R70), a reset event (R230), or the
engine's turn to take its completion step (R45, R246). A register is named by its word address, `offset / 4` (R20). -/
inductive Move where
  /-- The host writes a register. -/
  | regWrite (idx : BitVec 10) (v : Word)
  /-- The host reads a register. -/
  | regRead (idx : BitVec 10)
  /-- The host (or any other owner of the buffer) writes an image byte; the move stands where the write completes. -/
  | imgWrite (a : Word) (b : Byte)
  /-- The host reads an image byte. -/
  | imgRead (a : Word)
  /-- The reset event. -/
  | reset
  /-- The engine takes its completion step now; with nothing pending it does nothing. -/
  | engine
  deriving DecidableEq, Repr

/-- What a read of the host returned. -/
inductive Reading where
  /-- A register read of word address `idx`. -/
  | reg (idx : BitVec 10) (v : Word)
  /-- An image byte read. -/
  | byte (a : Word) (b : Byte)
  deriving DecidableEq, Repr

/-- The image: (address, byte) pairs in one canonical form (`Memory.wf`). -/
abbrev Image := List Host.Cell

/-- The whole state: R50's record, the image of R71, and the model's own three fields (`moves`, `readings`, `draws`). -/
@[ext]
structure State where
  /-- STATUS.BUSY (R31). -/
  busy : Bool
  /-- PENDING (R45): nothing, or the accepted command word. -/
  pending : Option Word
  /-- STATUS.DONE (R31). -/
  done : Bool
  /-- STATUS.TV (R31). -/
  tv : Bool
  /-- STATUS.CV (R31). -/
  cv : Bool
  /-- STATUS.M0 (R31). -/
  m0 : Bool
  /-- STATUS.M1 (R31). -/
  m1 : Bool
  /-- STATUS.W0 (R31). -/
  w0 : Bool
  /-- STATUS.W1 (R31). -/
  w1 : Bool
  /-- STATUS.OVR (R31). -/
  ovr : Bool
  /-- STATUS.ERR (R201). -/
  err : ErrCode
  /-- STATUS.RES (R202). -/
  res : ResCode
  /-- CTRL.IE (R33). -/
  ie : Bool
  /-- ID (R34). -/
  id : Identity
  /-- IMG_LEN (R37). -/
  imgLen : Word
  /-- FP_BASE (R38). -/
  fpBase : Word
  /-- FP_LEN (R38). -/
  fpLen : Word
  /-- FP (R39). -/
  fp : Word
  /-- CK0 (R41). -/
  ck0 : Word
  /-- CK1 (R41). -/
  ck1 : Word
  /-- ST0 (R42). -/
  st0 : Word
  /-- ST1 (R42). -/
  st1 : Word
  /-- ACC1..ACC6 (R40). -/
  acc : Acc
  /-- The table storage (R44). -/
  table : Vector Word 256
  /-- The image of the host (R71). -/
  image : Image
  /-- The model's own: the moves still to come, the next one first (log entry 1). -/
  moves : List Move
  /-- The model's own: what the host has read, the latest first (log entry 6). -/
  readings : List Reading
  /-- The model's own: the number of free draws taken (log entries 4 and 5). -/
  draws : Nat
  deriving DecidableEq, Repr

/-- Why a run has no final state. -/
inductive Fault where
  /-- IMAGE_RACE (20_memory.md R86, 60_exceptions.md R210): a host write to an image byte below IMG_LEN while
  BUSY = 1, raised by `Move.imgWrite` in `Machine/HostPort.lean`. Safe: the run stops where the spec says that
  everything the command could write is unspecified. Log entry 7. -/
  | imageRace
  deriving DecidableEq, Repr

/-- Why an instruction has no meaning. -/
inductive Refusal where
  /-- An opcode-table row without a meaning, named by its mnemonic; raised by an arm of `exec` (none is left). Safe. -/
  | notModelled (mnemonic : String)
  deriving DecidableEq, Repr

/-- The machine right after reset (R230, R21, R31), with an image that lists nothing and no host move to come. The
table storage is unspecified there (log entry 3). -/
def State.reset : State where
  busy := false
  pending := none
  done := false
  tv := false
  cv := false
  m0 := false
  m1 := false
  w0 := false
  w1 := false
  ovr := false
  err := .none
  res := .none
  ie := false
  id := .unknown
  imgLen := 0
  fpBase := 0
  fpLen := 0
  fp := 0
  ck0 := 0
  ck1 := 0
  st0 := 0
  st1 := 0
  acc := Acc.all 0
  table := Vector.replicate 256 Config.resetTableWord
  image := []
  moves := []
  readings := []
  draws := 0

end Sys2Proof.Machine
end

