-- ==== Sys2Proof/Machine/Ops.lean ====
section
/-! DEFINITION. The named operations over words, image memory and control state: the arithmetic of 00_scope.md R11,
the image primitives of 20_memory.md R72-R74, acceptance (10_state.md R45) and completion (60_exceptions.md R200). -/

namespace Sys2Proof.Machine

/-! ### Arithmetic (R11) -/

/-- `add32` (R11): the sum mod 2^32. -/
def add32 (a b : Word) : Word := a + b

/-- `mul32` (R11): the low 32 bits of the product. -/
def mul32 (a b : Word) : Word := a * b

/-- `rotl32` (R11), for `n` below 32; rotation by 0 is the identity. -/
def rotl32 (v : Word) (n : Nat) : Word :=
  if n = 0 then v else (v <<< n) ||| (v >>> (32 - n))

/-! ### The image (R70-R75) -/

/-- `MemRead8` (R74). -/
def readByte : Image → Nat → Byte
  | [], _ => Config.unlistedByte
  | (k, b) :: rest, a => if k = a then b else readByte rest a

/-- Write one byte, keeping the canonical form: writing what an unlisted address reads as removes the entry. -/
def writeByte : Image → Nat → Byte → Image
  | [], a, b => if b = Config.unlistedByte then [] else [(a, b)]
  | (k, c) :: rest, a, b =>
    if k < a then (k, c) :: writeByte rest a b
    else if b = Config.unlistedByte then (if k = a then rest else (k, c) :: rest)
    else if k = a then (a, b) :: rest
    else (a, b) :: (k, c) :: rest

/-- The canonical form: addresses strictly rising and inside the 32-bit image space (R70), no entry equal to what an
unlisted address reads as. -/
def Memory.wf : Image → Bool
  | [] => true
  | [(k, b)] => decide (k < 2 ^ 32) && b != Config.unlistedByte
  | (k, b) :: (k', b') :: rest =>
    decide (k < k') && b != Config.unlistedByte && Memory.wf ((k', b') :: rest)

/-- `MemRead(a, 4)` (R72): big-endian, the byte at `a` is bits 31:24. -/
def readWord (m : Image) (a : Nat) : Word :=
  readByte m a ++ readByte m (a + 1) ++ readByte m (a + 2) ++ readByte m (a + 3)

/-- `MemWrite(a, 4, v)` (R73): big-endian. -/
def writeWord (m : Image) (a : Nat) (v : Word) : Image :=
  writeByte (writeByte (writeByte (writeByte m a (v.extractLsb' 24 8)) (a + 1) (v.extractLsb' 16 8))
    (a + 2) (v.extractLsb' 8 8)) (a + 3) (v.extractLsb' 0 8)

/-! ### Acceptance and completion (R45, R200)

The block has no trap (R205): an error is reported by `raiseError`, which is `complete` with RES = NONE, and the next
acceptance clears what it left (R206). -/

/-- Acceptance of the command word `w` (R45). -/
def State.accept (s : State) (w : Word) : State :=
  { s with
    done := false, err := .none, res := .none, m0 := false, m1 := false, w0 := false, w1 := false
    pending := some w, busy := true }

/-- `complete(err, res)` (R200). -/
def State.complete (s : State) (e : ErrCode) (r : ResCode) : State :=
  { s with err := e, res := r, pending := none, busy := false, done := true }

/-- `raise Error(e)` (R200, R12): complete with RES = NONE and no other change. -/
def State.raiseError (s : State) (e : ErrCode) : State := s.complete e .none

/-! ### Free draws and the record of host reads -/

/-- The host's read returned `x`, and `n` free draws were taken for it. -/
def State.logReading (s : State) (x : Reading) (n : Nat) : State :=
  { s with readings := x :: s.readings, draws := s.draws + n }

/-- One of an old and a new value, by the `n`-th free choice. -/
def drawBetween {α : Type} (n : Nat) (old new : α) : α := if Config.freeBit n then new else old

end Sys2Proof.Machine
end

