-- ==== Sys2Proof/Machine/Operands.lean ====
section
/-! DEFINITION. Operand assembly (30_encoding.md R102): the identity code of ID (10_state.md R34, R35), the window
each command needs and its bounds check (20_memory.md R79). -/

namespace Sys2Proof.Machine

/-! ### The identity code (R34) -/

/-- ID.CODE of an identity (R34). -/
def Identity.code : Identity → BitVec 3
  | .unknown => 0
  | .known .cic6101 => 1
  | .known .cic6102 => 2
  | .known .cic6103 => 3
  | .known .cic6105 => 4
  | .known .cic6106 => 5

/-- The identity a host write of `v[2:0]` stores: codes 6 and 7 store UNKNOWN (R35). -/
def Identity.ofCode (c : BitVec 3) : Identity :=
  match c.toNat with
  | 1 => .known .cic6101
  | 2 => .known .cic6102
  | 3 => .known .cic6103
  | 4 => .known .cic6105
  | 5 => .known .cic6106
  | _ => .unknown

/-! ### Bounds (R79): exact sums of natural numbers, which cannot wrap -/

/-- The image length FPRINT needs: FP_BASE + FP_LEN. -/
def State.fprintNeed (s : State) : Nat := s.fpBase.toNat + s.fpLen.toNat

/-- The image length CLASSIFY needs: BC_OFF + BC_LEN. -/
def classifyNeed : Nat := Config.bcOff + Config.bcLen

/-- The image length CKSUM and FIX need: IMG_MIN, CK_START + CK_LEN. -/
def cksumNeed : Nat := Config.imgMin

/-- The image length HDRFIX needs: the end of stored word 1. -/
def hdrfixNeed : Nat := Config.hdr1Off + 4

/-- The check fails: a window that needs `n` image bytes exceeds IMG_LEN (R79). -/
def State.outOfBounds (s : State) (n : Nat) : Bool := decide (s.imgLen.toNat < n)

end Sys2Proof.Machine
end

