-- ==== Sys2Proof/Machine/Flags.lean ====
section
/-! DEFINITION. Flags: the carry of a 32-bit add (00_scope.md R11), the STATUS word (10_state.md R31), its
write-one-to-clear bits (R32) and the interrupt output (R47). The block has no condition codes (R49). -/

namespace Sys2Proof.Machine

/-- `carry32` (R11): the exact sum reaches 2^32. -/
def carry32 (a b : Word) : Bool := decide (2 ^ 32 ≤ a.toNat + b.toNat)

/-- STATUS.ERR's code (R201). -/
def ErrCode.code : ErrCode → BitVec 4
  | .none => 0
  | .illegalCmd => 1
  | .bounds => 2
  | .unidentified => 3
  | .noChecksum => 4

/-- STATUS.RES's code (R202). -/
def ResCode.code : ResCode → BitVec 2
  | .none => 0
  | .fixed => 1
  | .alreadyCorrect => 2
  | .unidentified => 3

/-- The STATUS register as read (R31), from bit 31 down to bit 0. -/
def State.statusWord (s : State) : Word :=
  0#14 ++ s.res.code ++ s.err.code ++ 0#3 ++ BitVec.ofBool s.ovr ++ BitVec.ofBool s.w1 ++ BitVec.ofBool s.w0 ++
    BitVec.ofBool s.m1 ++ BitVec.ofBool s.m0 ++ BitVec.ofBool s.cv ++ BitVec.ofBool s.tv ++
    BitVec.ofBool s.done ++ BitVec.ofBool s.busy

/-- A host write of `v` to STATUS (R32): bit 1 clears DONE, bit 8 clears OVR, at any time. -/
def State.writeStatus (s : State) (v : Word) : State :=
  { s with done := s.done && !v.getLsbD 1, ovr := s.ovr && !v.getLsbD 8 }

/-- The CTRL register as read (R33): IE at bit 0, the rest reserved. -/
def State.ctrlWord (s : State) : Word := 0#31 ++ BitVec.ofBool s.ie

/-- The ID register as read (R34): CODE in bits 2:0, the rest reserved. -/
def State.idWord (s : State) : Word := 0#29 ++ s.id.code

/-- The interrupt output (R47, R208). -/
def State.irq (s : State) : Bool := s.done && s.ie

end Sys2Proof.Machine
end

