-- ==== Sys2Proof/Machine/Crc.lean ====
section
/-! DEFINITION. The CRC-32 table generator and the fingerprint (40_crc32_table_generator.md): TBLGEN and FPRINT. -/

namespace Sys2Proof.Machine

/-- One iteration of R120: shift right, and XOR the polynomial when the bit shifted out was 1. -/
def tableStep (a : Word) : Word := if a.getLsbD 0 then (a >>> 1) ^^^ Config.poly else a >>> 1

/-- `n` iterations of R120. -/
def tableSteps : Nat → Word → Word
  | 0, a => a
  | n + 1, a => tableSteps n (tableStep a)

/-- `TableEntry(i)` (R120). -/
def tableEntry (i : Byte) : Word := tableSteps 8 (i.setWidth 32)

/-- The built table: TABLE[i] = TableEntry(i) (R44, R125). -/
def builtTable : Vector Word 256 := Vector.ofFn fun i => tableEntry (BitVec.ofNat 8 i.val)

/-- The build of R125: every entry, and TV <- 1. -/
def State.buildTable (s : State) : State := { s with table := builtTable, tv := true }

/-- `EnsureTable` (R126): the lazy build. -/
def State.ensureTable (s : State) : State := if s.tv then s else s.buildTable

/-- `CrcStep(acc, b)` (R122). -/
def crcStep (acc : Word) (b : Byte) : Word :=
  (acc >>> 8) ^^^ tableEntry ((acc ^^^ b.setWidth 32).setWidth 8)

/-- The loop of R123 over `n` bytes from address `a`, in ascending order. -/
def fingerprintLoop (m : Image) : Nat → Nat → Word → Word
  | 0, _, acc => acc
  | n + 1, a, acc => fingerprintLoop m n (a + 1) (crcStep acc (readByte m a))

/-- `Fingerprint(base, n)` (R123). -/
def fingerprint (m : Image) (base n : Nat) : Word := ~~~ fingerprintLoop m n base Config.crcInit

/-- `FingerprintBytes(L)` (R123): the same function over a byte list. -/
def fingerprintBytes (l : List Byte) : Word := ~~~ l.foldl crcStep Config.crcInit

/-- TBLGEN (R125). -/
def execTblgen (s : State) : Host.Outcome State Fault Refusal :=
  .next (s.buildTable.complete .none .none)

/-- FPRINT (R127). -/
def execFprint (s : State) : Host.Outcome State Fault Refusal :=
  if s.outOfBounds s.fprintNeed then .next (s.raiseError .bounds)
  else
    let s1 := s.ensureTable
    let s2 := { s1 with fp := fingerprint s1.image s1.fpBase.toNat s1.fpLen.toNat }
    .next (s2.complete .none .none)

end Sys2Proof.Machine
end

