-- ==== Sys2Proof/Machine/Classifier.lean ====
section
/-! DEFINITION. The ROM header classifier (41_rom_header_classifier.md): CLASSIFY. -/

namespace Sys2Proof.Machine

/-- `Classify(fp)` (R140): an exact match of the full 32-bit value. -/
def classify (fp : Word) : Identity :=
  if fp = 0x6170A4A1#32 then .known .cic6101
  else if fp = 0x90BB6CB5#32 then .known .cic6102
  else if fp = 0x0B050EE0#32 then .known .cic6103
  else if fp = 0x98BC2C86#32 then .known .cic6105
  else if fp = 0xACC8580A#32 then .known .cic6106
  else .unknown

/-- The fingerprint of the boot-code window (R141). Irreducible, so that no unification runs the loop;
`rw [bootFingerprint]` opens it. -/
@[irreducible] def bootFingerprint (m : Image) : Word := fingerprint m Config.bcOff Config.bcLen

/-- The classification step shared by CLASSIFY and FIX (R141): FP and ID from the image, CV <- 0 (R35). -/
def State.classifyImage (s : State) : State :=
  { s with fp := bootFingerprint s.image, id := classify (bootFingerprint s.image), cv := false }

/-- CLASSIFY (R142). An Unknown result is not an error. -/
def execClassify (s : State) : Host.Outcome State Fault Refusal :=
  if s.outOfBounds classifyNeed then .next (s.raiseError .bounds)
  else .next (s.ensureTable.classifyImage.complete .none .none)

end Sys2Proof.Machine
end

