-- ==== Sys2Proof/Machine/Mixer.lean ====
section
/-! DEFINITION. The checksum mixer engine (42_checksum_mixer_engine.md): CKSUM. -/

namespace Sys2Proof.Machine

/-- `Seed(c)` (R150). -/
def seed : Cic → Word
  | .cic6101 => 0xF8CA4DDC
  | .cic6102 => 0xF8CA4DDC
  | .cic6103 => 0xA3886759
  | .cic6105 => 0xDF26F436
  | .cic6106 => 0x1FEA617A

/-- `MixStep(acc, d, aux, c)` (R153), statement by statement: acc[4], acc[6], acc[3], r, acc[5], acc[2], acc[1].
acc[2] reads the updated acc[6], and acc[1] the updated acc[5]. -/
def mixStep (acc : Acc) (d aux : Word) (c : Cic) : Acc :=
  let a4 := if carry32 acc.a6 d then add32 acc.a4 1 else acc.a4
  let a6 := add32 acc.a6 d
  let a3 := acc.a3 ^^^ d
  let r := rotl32 d (d &&& 0x1F).toNat
  let a5 := add32 acc.a5 r
  let a2 := if d.toNat < acc.a2.toNat then acc.a2 ^^^ r else acc.a2 ^^^ (a6 ^^^ d)
  let a1 := if c = .cic6105 then add32 acc.a1 (aux ^^^ d) else add32 acc.a1 (a5 ^^^ d)
  { a1, a2, a3, a4, a5, a6 }

/-- `AuxAddr(off)` (R154): `off` is the byte offset of the current data word. -/
def auxAddr (off : Nat) : Nat := Config.auxBase + off % 0x100

/-- The auxiliary word of R156: read for CIC-6105 only. -/
def auxWord (m : Image) (c : Cic) (off : Nat) : Word :=
  if c = .cic6105 then readWord m (auxAddr off) else 0

/-- The loop of R156: `n` iterations from byte offset `off`, in ascending order. -/
def mixLoop (m : Image) (c : Cic) : Nat → Nat → Acc → Acc
  | 0, _, acc => acc
  | n + 1, off, acc => mixLoop m c n (off + 4) (mixStep acc (readWord m off) (auxWord m c off) c)

/-- `Finalize(acc, c)` (R155). -/
def finalize (acc : Acc) : Cic → Word × Word
  | .cic6101 => (acc.a6 ^^^ acc.a4 ^^^ acc.a3, acc.a5 ^^^ acc.a2 ^^^ acc.a1)
  | .cic6102 => (acc.a6 ^^^ acc.a4 ^^^ acc.a3, acc.a5 ^^^ acc.a2 ^^^ acc.a1)
  | .cic6103 => (add32 (acc.a6 ^^^ acc.a4) acc.a3, add32 (acc.a5 ^^^ acc.a2) acc.a1)
  | .cic6105 => (acc.a6 ^^^ acc.a4 ^^^ acc.a3, acc.a5 ^^^ acc.a2 ^^^ acc.a1)
  | .cic6106 => (add32 (mul32 acc.a6 acc.a4) acc.a3, add32 (mul32 acc.a5 acc.a2) acc.a1)

/-- The accumulators at the end of `Checksum(c)` (R156). Irreducible, so that no unification runs the 0x40000
iterations; `rw [checksumAcc]` opens it. -/
@[irreducible] def checksumAcc (m : Image) (c : Cic) : Acc :=
  mixLoop m c Config.ckIters Config.ckStart (Acc.all (seed c))

/-- The checksum step shared by CKSUM and FIX: ACC, both checksum words and CV <- 1 in one transition (R157, R41). -/
def State.latchChecksum (s : State) (c : Cic) : State :=
  let a := checksumAcc s.image c
  { s with acc := a, ck0 := (finalize a c).1, ck1 := (finalize a c).2, cv := true }

/-- CKSUM (R157). BOUNDS is checked before the identity (R204). -/
def execCksum (s : State) : Host.Outcome State Fault Refusal :=
  if s.outOfBounds cksumNeed then .next (s.raiseError .bounds)
  else
    match s.id with
    | .unknown => .next (s.raiseError .unidentified)
    | .known c => .next ((s.latchChecksum c).complete .none .none)

end Sys2Proof.Machine
end

