-- ==== Sys2Proof/Machine/Header.lean ====
section
/-! DEFINITION. The header comparator and patcher (43_header_comparator_patcher.md): HDRFIX, FIX and NOP. -/

namespace Sys2Proof.Machine

/-- Stored word 0 (R180). -/
def storedWord0 (m : Image) : Word := readWord m Config.hdr0Off

/-- Stored word 1 (R180). -/
def storedWord1 (m : Image) : Word := readWord m Config.hdr1Off

/-- The image after `HeaderFix(k0, k1)` (R182): both words are read first, and a word that matches is not written. -/
def headerImage (m : Image) (k0 k1 : Word) : Image :=
  let m0 := if storedWord0 m = k0 then m else writeWord m Config.hdr0Off k0
  if storedWord1 m = k1 then m0 else writeWord m0 Config.hdr1Off k1

/-- The compare-and-patch step shared by HDRFIX and FIX (R182, R183): the pair CK0, CK1 against the stored pair;
it latches ST0, ST1, M0, M1, W0, W1 and completes with FIXED or ALREADY_CORRECT (R184). -/
def State.headerFix (s : State) : State :=
  let m0 := decide (storedWord0 s.image = s.ck0)
  let m1 := decide (storedWord1 s.image = s.ck1)
  let s1 := { s with
    st0 := storedWord0 s.image, st1 := storedWord1 s.image
    m0 := m0, m1 := m1, w0 := !m0, w1 := !m1
    image := headerImage s.image s.ck0 s.ck1 }
  s1.complete .none (if !m0 || !m1 then .fixed else .alreadyCorrect)

/-- NOP (R186). -/
def execNop (s : State) : Host.Outcome State Fault Refusal := .next (s.complete .none .none)

/-- HDRFIX (R183). -/
def execHdrfix (s : State) : Host.Outcome State Fault Refusal :=
  if s.outOfBounds hdrfixNeed then .next (s.raiseError .bounds)
  else if s.cv then .next s.headerFix
  else
    match s.id with
    | .unknown => .next (s.complete .unidentified .unidentified)
    | .known _ => .next (s.complete .noChecksum .none)

/-- FIX (R188). -/
def execFix (s : State) : Host.Outcome State Fault Refusal :=
  if s.outOfBounds cksumNeed then .next (s.raiseError .bounds)
  else
    let s1 := s.ensureTable.classifyImage
    match s1.id with
    | .unknown => .next (s1.complete .unidentified .unidentified)
    | .known c => .next (s1.latchChecksum c).headerFix

end Sys2Proof.Machine
end

