-- ==== Sys2Proof/Machine/Dispatch.lean ====
section
/-! DEFINITION. The completion step of each command (30_encoding.md R103): one arm per constructor of `Instr`. -/

namespace Sys2Proof.Machine

def exec (i : Instr) (s : State) : Host.Outcome State Fault Refusal :=
  match i with
  | .nop => Sys2Proof.Machine.execNop s
  | .tblgen => Sys2Proof.Machine.execTblgen s
  | .fprint => Sys2Proof.Machine.execFprint s
  | .classify => Sys2Proof.Machine.execClassify s
  | .cksum => Sys2Proof.Machine.execCksum s
  | .hdrfix => Sys2Proof.Machine.execHdrfix s
  | .fix => Sys2Proof.Machine.execFix s

end Sys2Proof.Machine
end

