-- ==== Sys2Proof/Machine/Engine.lean ====
section
/-! DEFINITION. The engine's move: the completion step of the pending command (10_state.md R45). -/

namespace Sys2Proof.Machine

/-- R104: an illegal word completes with ILLEGAL_CMD and does nothing else. -/
def execIllegal (s : State) : Host.Outcome State Fault Refusal := .next (s.raiseError .illegalCmd)

/-- The engine's move (R45): the completion step of the pending word; with nothing pending it changes nothing (R216). -/
def engineMove (s : State) : Host.Outcome State Fault Refusal :=
  match s.pending with
  | none => .next s
  | some w =>
    match decode w with
    | .ok i => exec i s
    | .error _ => execIllegal s

/-- The state the pending command would leave: where a read or a reset during a command may see new bytes
(R46, R87, R231). -/
def State.afterPending (s : State) : State :=
  match engineMove s with
  | .next t => t
  | .fault _ => s
  | .refused _ => s

end Sys2Proof.Machine
end

