-- ==== Sys2Proof/Machine/RegPort.lean ====
section
/-! DEFINITION. The register port (10_state.md R20-R46): the register map, host register writes and reads. -/

namespace Sys2Proof.Machine

/-- The registers of the map of R21; a table entry carries its index. -/
inductive Reg where
  | cmd | status | ctrl | id | imgLen | fpBase | fpLen | fp | ck0 | ck1 | st0 | st1
  | acc1 | acc2 | acc3 | acc4 | acc5 | acc6
  | table (i : Fin 256)
  | reserved
  deriving DecidableEq, Repr

/-- The word address of a byte offset of the port (R20). -/
def portIndex (offset : Nat) : BitVec 10 := BitVec.ofNat 10 (offset / 4)

/-- The register map (R21), by byte offset `4 * idx`. -/
def regAt (idx : BitVec 10) : Reg :=
  let off := 4 * idx.toNat
  if off = 0x000 then .cmd
  else if off = 0x004 then .status
  else if off = 0x008 then .ctrl
  else if off = 0x00C then .id
  else if off = 0x010 then .imgLen
  else if off = 0x014 then .fpBase
  else if off = 0x018 then .fpLen
  else if off = 0x01C then .fp
  else if off = 0x020 then .ck0
  else if off = 0x024 then .ck1
  else if off = 0x028 then .st0
  else if off = 0x02C then .st1
  else if off = 0x030 then .acc1
  else if off = 0x034 then .acc2
  else if off = 0x038 then .acc3
  else if off = 0x03C then .acc4
  else if off = 0x040 then .acc5
  else if off = 0x044 then .acc6
  else if 0x400 ≤ off ∧ off < 0x800 then .table (Fin.ofNat 256 ((off - 0x400) / 4))
  else .reserved

/-- A write that BUSY = 1 turns away (R25): ignored, OVR <- 1. -/
def State.unlessBusy (s : State) (t : State) : State := if s.busy then { s with ovr := true } else t

/-- A host write of `v` to a register (R21-R26, R32, R33, R35, R37, R38). Read-only and reserved ones ignore it. -/
def State.writeRegister (s : State) (r : Reg) (v : Word) : State :=
  match r with
  | .cmd => s.unlessBusy (s.accept v)
  | .status => s.writeStatus v
  | .ctrl => { s with ie := v.getLsbD 0 }
  | .id => s.unlessBusy { s with id := Identity.ofCode (v.extractLsb' 0 3), cv := false }
  | .imgLen => s.unlessBusy { s with imgLen := v }
  | .fpBase => s.unlessBusy { s with fpBase := v }
  | .fpLen => s.unlessBusy { s with fpLen := v }
  | .fp => s
  | .ck0 => s
  | .ck1 => s
  | .st0 => s
  | .st1 => s
  | .acc1 => s
  | .acc2 => s
  | .acc3 => s
  | .acc4 => s
  | .acc5 => s
  | .acc6 => s
  | .table _ => s
  | .reserved => s

/-- The TABLE window (R43): the entry, or 0 while TV = 0. -/
def State.tableView (s : State) (i : Fin 256) : Word := if s.tv then s.table[i] else 0

/-- The value of a register as the rules give it (R21): what a read returns when BUSY = 0. -/
def State.registerValue (s : State) (r : Reg) : Word :=
  match r with
  | .cmd => 0
  | .status => s.statusWord
  | .ctrl => s.ctrlWord
  | .id => s.idWord
  | .imgLen => s.imgLen
  | .fpBase => s.fpBase
  | .fpLen => s.fpLen
  | .fp => s.fp
  | .ck0 => s.ck0
  | .ck1 => s.ck1
  | .st0 => s.st0
  | .st1 => s.st1
  | .acc1 => s.acc.a1
  | .acc2 => s.acc.a2
  | .acc3 => s.acc.a3
  | .acc4 => s.acc.a4
  | .acc5 => s.acc.a5
  | .acc6 => s.acc.a6
  | .table i => s.tableView i
  | .reserved => 0

/-- The value a read returns while BUSY = 1 (R46): a free draw for a result register, the old or the new view for a
table entry, and the register's value for the others. -/
def State.busyValue (s : State) (r : Reg) : Word :=
  match r with
  | .cmd => s.registerValue r
  | .status => s.registerValue r
  | .ctrl => s.registerValue r
  | .imgLen => s.registerValue r
  | .fpBase => s.registerValue r
  | .fpLen => s.registerValue r
  | .reserved => s.registerValue r
  | .table i => drawBetween s.draws (s.tableView i) (s.afterPending.tableView i)
  | .id => Config.freeWord s.draws
  | .fp => Config.freeWord s.draws
  | .ck0 => Config.freeWord s.draws
  | .ck1 => Config.freeWord s.draws
  | .st0 => Config.freeWord s.draws
  | .st1 => Config.freeWord s.draws
  | .acc1 => Config.freeWord s.draws
  | .acc2 => Config.freeWord s.draws
  | .acc3 => Config.freeWord s.draws
  | .acc4 => Config.freeWord s.draws
  | .acc5 => Config.freeWord s.draws
  | .acc6 => Config.freeWord s.draws

/-- A host read of a register: the reading is recorded; while BUSY = 1 it takes the next draw number. -/
def State.readRegister (s : State) (idx : BitVec 10) : State :=
  if s.busy then s.logReading (.reg idx (s.busyValue (regAt idx))) 1
  else s.logReading (.reg idx (s.registerValue (regAt idx))) 0

end Sys2Proof.Machine
end

