-- ==== Sys2Proof/Machine/HostPort.lean ====
section
/-! DEFINITION. The host's moves (00_scope.md R16): register accesses, image accesses (20_memory.md R86, R87) and
reset (70_reset_and_hazards.md R230, R231). -/

namespace Sys2Proof.Machine

/-- Bytes 0x10-0x17, the engine's write set (R82). -/
def inHeaderWords (a : Nat) : Bool := decide (Config.hdr0Off ≤ a ∧ a < Config.hdr1Off + 4)

/-- A host image write: IMAGE_RACE below IMG_LEN while BUSY = 1 (R86), else the byte is written. -/
def hostWriteByte (s : State) (a : Word) (b : Byte) : Host.Outcome State Fault Refusal :=
  if s.busy && decide (a.toNat < s.imgLen.toNat) then .fault .imageRace
  else .next { s with image := writeByte s.image a.toNat b }

/-- A host image read (R87): a header byte while BUSY = 1 is a draw between old and new; every other read is the byte. -/
def State.hostReadByte (s : State) (a : Word) : State :=
  if s.busy && inHeaderWords a.toNat then
    s.logReading
      (.byte a (drawBetween s.draws (readByte s.image a.toNat) (readByte s.afterPending.image a.toNat))) 1
  else s.logReading (.byte a (readByte s.image a.toNat)) 0

/-- The header bytes left by a reset in mid-command (R231): `k` bytes up from 0x10, byte `j` by draw `n + j`. -/
def drawHeader (old new : Image) (n : Nat) : Nat → Image
  | 0 => old
  | k + 1 =>
    writeByte (drawHeader old new n k) (Config.hdr0Off + k)
      (drawBetween (n + k) (readByte old (Config.hdr0Off + k)) (readByte new (Config.hdr0Off + k)))

/-- The reset event: every register takes its reset value, the image stays (R230); while BUSY = 1 the command is
abandoned and each of the eight header bytes is drawn (R231). The model's own fields stay. -/
def State.resetEvent (s : State) : State :=
  { State.reset with
    image := if s.busy then drawHeader s.image s.afterPending.image s.draws 8 else s.image
    moves := s.moves, readings := s.readings
    draws := if s.busy then s.draws + 8 else s.draws }

/-- One move at the block's boundary. -/
def makeMove (m : Move) (s : State) : Host.Outcome State Fault Refusal :=
  match m with
  | .regWrite idx v => .next (s.writeRegister (regAt idx) v)
  | .regRead idx => .next (s.readRegister idx)
  | .imgWrite a b => hostWriteByte s a b
  | .imgRead a => .next (s.hostReadByte a)
  | .reset => .next s.resetEvent
  | .engine => engineMove s

end Sys2Proof.Machine
end

