-- ==== Sys2Proof/Machine/Step.lean ====
section
/-! DEFINITION. One step of the machine: the next move of the list `moves`, or the engine's when none is left. -/

namespace Sys2Proof.Machine

/-- One step. The first move of `moves` is made (and taken off the list); with none left, the engine moves: it takes
its completion step when a command is pending (weak fairness, R248), and otherwise the block is idle (R216). -/
def step (s : State) : Host.Outcome State Fault Refusal :=
  match s.moves with
  | [] => engineMove s
  | m :: rest => makeMove m { s with moves := rest }

/-- `s` with the opcode-table word `w` accepted as by a host write to CMD while BUSY = 0 (R45) and the engine's turn
next, so that the next step is that command's completion step. Log entry 8. -/
def State.withFetchWord (s : State) (nbits w : Nat) : State :=
  { s.accept (tableWord nbits w) with moves := .engine :: s.moves }

end Sys2Proof.Machine
end

