-- ==== Sys2Proof/Machine/HostProgram.lean ====
section
/-! DEFINITION. The host program notation (30_encoding.md R107, R108): statements and their expansion into moves. The
notation is not semantic (92_eei_decisions.md D25); control flow belongs to the host (R14).
When a completion step falls in a host program is open (R246): the expansion fixes ONE such schedule (log entry 19). -/

namespace Sys2Proof.Machine

/-- The statements of R107 and the pseudo-instructions of R108. A register is named by its byte offset. -/
inductive HostStmt where
  /-- `wr REG, v`. -/
  | wr (offset : Nat) (v : Word)
  /-- `rd REG -> name`. -/
  | rd (offset : Nat)
  /-- `cmd MNEMONIC`. -/
  | cmd (i : Instr)
  /-- `wait`: STATUS is polled `polls` times before the completion step, and once after it (log entries 10 and 19). -/
  | wait (polls : Nat)
  /-- `mwr8 a, b`. -/
  | mwr8 (a : Word) (b : Byte)
  /-- `mwr32 a, v`: four `mwr8`s, big-endian. -/
  | mwr32 (a : Word) (v : Word)
  /-- `mrd32 a -> name`: the four bytes, the most significant first. -/
  | mrd32 (a : Word)
  /-- `tblrd i -> name`. -/
  | tblrd (i : Byte)
  /-- `clrdone`. -/
  | clrdone
  /-- `clrovr`. -/
  | clrovr
  deriving DecidableEq, Repr

/-- The moves a statement stands for (R107, R108). DESIGN CHOICE, unsafe (log entry 19): the engine's turn stands in
`wait` alone, although R246 lets the completion step come at any point after acceptance. -/
def HostStmt.expand : HostStmt → List Move
  | .wr offset v => [.regWrite (portIndex offset) v]
  | .rd offset => [.regRead (portIndex offset)]
  | .cmd i => [.regWrite (portIndex 0x000) (encode i)]
  | .wait polls => List.replicate polls (.regRead (portIndex 0x004)) ++ [.engine, .regRead (portIndex 0x004)]
  | .mwr8 a b => [.imgWrite a b]
  | .mwr32 a v =>
    [.imgWrite a (v.extractLsb' 24 8), .imgWrite (a + 1) (v.extractLsb' 16 8), .imgWrite (a + 2) (v.extractLsb' 8 8),
      .imgWrite (a + 3) (v.extractLsb' 0 8)]
  | .mrd32 a => [.imgRead a, .imgRead (a + 1), .imgRead (a + 2), .imgRead (a + 3)]
  | .tblrd i => [.regRead (portIndex (0x400 + 4 * i.toNat))]
  | .clrdone => [.regWrite (portIndex 0x004) 0x00000002]
  | .clrovr => [.regWrite (portIndex 0x004) 0x00000100]

/-- The moves of a host program, statement by statement: the one schedule in which no completion step falls before a
`wait` or the end of the moves. DESIGN CHOICE, unsafe (log entry 19): of the two outcomes that 95_test_vectors.md demands
for program P7 it gives (b) only; (a) is the run of the list with a `Move.engine` put between the two CMD writes, which
`step` admits like any other list of moves (log entry 1). -/
def hostMoves (p : List HostStmt) : List Move := p.flatMap HostStmt.expand

end Sys2Proof.Machine
end

