-- ==== Sys2Proof/Safety.lean ====
section
/-! DEFINITION. What counts as a good state and a good run: the invariant of the model, the host's duty (20_memory.md
R86) and the premise of a successful command (60_exceptions.md R210). -/

namespace Sys2Proof.Machine

/-- The outcome fields of STATUS agree with one another: FIXED when a word was written, ALREADY_CORRECT when both
matched, a word that matched was not written, and no error reports a compare (R183, R184, R202, R203). -/
structure State.OutcomeInv (s : State) : Prop where
  fixed_iff : s.res = .fixed ↔ (s.w0 = true ∨ s.w1 = true)
  already_iff : s.res = .alreadyCorrect ↔ (s.m0 = true ∧ s.m1 = true)
  word0 : ¬(s.m0 = true ∧ s.w0 = true)
  word1 : ¬(s.m1 = true ∧ s.w1 = true)
  error : s.err ≠ .none → s.m0 = false ∧ s.m1 = false ∧ s.w0 = false ∧ s.w1 = false

/-- The invariant that every step keeps. -/
structure State.Inv (s : State) : Prop where
  /-- The image is in its canonical form. -/
  image_wf : Memory.wf s.image = true
  /-- BUSY is 1 exactly while a command word is pending (R45, R200). -/
  busy_pending : s.busy = s.pending.isSome
  /-- STATUS.CV = 1 implies ID.CODE ≠ 0 (R36). -/
  cv_known : s.cv = true → s.id ≠ .unknown
  /-- TV = 1: the table holds TableEntry(i) for every i (R31, R44). -/
  tv_built : s.tv = true → s.table = builtTable
  /-- From acceptance to completion the outcome fields and DONE are clear (R45). -/
  busy_clear : s.busy = true → s.done = false ∧ s.err = .none ∧ s.res = .none ∧
    s.m0 = false ∧ s.m1 = false ∧ s.w0 = false ∧ s.w1 = false
  /-- The outcome fields agree. -/
  outcome : s.OutcomeInv

/-- The next move is a host image write that breaks the duty of R86. -/
def State.raceNext (s : State) : Prop :=
  ∃ a b rest, s.moves = .imgWrite a b :: rest ∧ s.busy = true ∧ a.toNat < s.imgLen.toNat

/-- A command that completed without a failed run in the sense of R210 (and R79). -/
def State.successful (s : State) : Prop := s.err ≠ .illegalCmd ∧ s.err ≠ .bounds

/-- `n` steps, stopping at the first fault or refusal. -/
def run : Nat → State → Host.Outcome State Fault Refusal
  | 0, s => .next s
  | n + 1, s =>
    match step s with
    | .next t => run n t
    | .fault f => .fault f
    | .refused r => .refused r

/-- A safe step: it has a next state. -/
def safeStep (s : State) : Prop := ∃ t, step s = .next t

end Sys2Proof.Machine
end

