-- ==== Sys2Proof/Certificates/Slice0/Obligations.lean ====
section
/-! DEFINITION. The statements for the provers, one `def Obligations.<Name> : Prop` each. The helpers at the top write
the spec's loops as folds over the list of their iterations, apart from the model's own loops, and say which pending
commands build the table. The boot-code window is BC_OFF, BC_LEN throughout, never its literals (R8). -/

open Sys2Proof Sys2Proof.Machine

/-- R120: one iteration of the table builder. -/
def Sys2Proof.Stated.shiftXor (a : Word) : Word := if a.getLsbD 0 then (a >>> 1) ^^^ 0xEDB88320#32 else a >>> 1

/-- R123: the `n` image bytes from `base`, in ascending order. -/
def Sys2Proof.Stated.bytesFrom (m : Image) (base n : Nat) : List Byte :=
  (List.range n).map fun k => readByte m (base + k)

/-- R141: the bytes of the boot-code window [BC_OFF, BC_OFF + BC_LEN). -/
def Sys2Proof.Stated.bootBytes (m : Image) : List Byte := Stated.bytesFrom m Config.bcOff Config.bcLen

/-- R126, R79: the pending command builds the table: TBLGEN, or FPRINT, CLASSIFY or FIX past its bounds check. -/
def Sys2Proof.Stated.buildsTable (s : State) : Prop :=
  s.pending = some (encode .tblgen) ∨
  (s.pending = some (encode .fprint) ∧ s.fpBase.toNat + s.fpLen.toNat ≤ s.imgLen.toNat) ∨
  (s.pending = some (encode .classify) ∧ Config.bcOff + Config.bcLen ≤ s.imgLen.toNat) ∨
  (s.pending = some (encode .fix) ∧ 0x101000 ≤ s.imgLen.toNat)

/-- R151: data word `k` of the checksum window. -/
def Sys2Proof.Stated.dataWord (m : Image) (k : Nat) : Word := readWord m (0x1000 + 4 * k)

/-- R156: the accumulators after all 0x40000 iterations, as a fold over the iteration index. -/
def Sys2Proof.Stated.checksumFold (m : Image) (c : Cic) : Acc :=
  (List.range 0x40000).foldl
    (fun acc k => mixStep acc (Stated.dataWord m k)
      (if c = .cic6105 then readWord m (0x750 + (0x1000 + 4 * k) % 0x100) else 0) c)
    ⟨seed c, seed c, seed c, seed c, seed c, seed c⟩

/-! ### Encoding -/

/-- R106, R103: decode answers command `i` exactly on the word `encode i`, and the seven words are those of the map. -/
def Obligations.DecodeAnswersExactlyTheEncodedWord : Prop :=
  (∀ (w : Word) (i : Instr), decode w = .ok i ↔ w = encode i) ∧
  encode .nop = 0x00000000#32 ∧ encode .tblgen = 0x00000001#32 ∧ encode .fprint = 0x00000002#32 ∧
  encode .classify = 0x00000003#32 ∧ encode .cksum = 0x00000004#32 ∧ encode .hdrfix = 0x00000005#32 ∧
  encode .fix = 0x00000006#32

/-- 95_test_vectors.md 2.8: sample words, the table's numbering included. -/
def Obligations.SampleWordsDecodeAsListed : Prop :=
  decode 0x00000000#32 = .ok .nop ∧ decode 0x00000003#32 = .ok .classify ∧ decode 0x00000006#32 = .ok .fix ∧
  decode 0x00000007#32 = .error .opUnknown ∧ decode 0x00000010#32 = .error .zNotZero ∧
  decode 0x80000006#32 = .error .zNotZero ∧ decode 0xFFFFFFFF#32 = .error .zNotZero ∧
  decodeTableWord 32 1 = some .tblgen ∧ decodeTableWord 32 2 = some .fprint ∧ decodeTableWord 32 4 = some .cksum ∧
  decodeTableWord 32 5 = some .hdrfix ∧ decodeTableWord 32 15 = none

/-- R104: which words are illegal (all but seven), that they are accepted like any other, and that their completion
step is `complete(ILLEGAL_CMD, NONE)` and nothing else. The clause with `s.moves = []` rests on the model's choice of
log entries 1 and 11: the engine moves when no move is left. -/
def Obligations.IllegalWordsCompleteWithIllegalCmd : Prop :=
  (∀ w : Word, (∃ e, decode w = .error e) ↔ (w.extractLsb' 4 28 ≠ 0#28 ∨ 7 ≤ (w.extractLsb' 0 4).toNat)) ∧
  (∃ legal : List Word, legal.length = 7 ∧ legal.Nodup ∧ ∀ w : Word, (∃ e, decode w = .error e) ↔ w ∉ legal) ∧
  (∀ (s : State) (w : Word) (e : Illegal) (rest : List Move), decode w = .error e → s.busy = false →
    s.moves = .regWrite 0 w :: rest →
    step s = .next { s with
      moves := rest, done := false, err := .none, res := .none, m0 := false, m1 := false, w0 := false, w1 := false,
      pending := some w, busy := true }) ∧
  (∀ (s : State) (w : Word) (e : Illegal), decode w = .error e → s.pending = some w → s.moves = [] →
    step s = .next { s with err := .illegalCmd, res := .none, pending := none, busy := false, done := true }) ∧
  (∀ (s : State) (w : Word) (e : Illegal) (rest : List Move), decode w = .error e → s.pending = some w →
    s.moves = .engine :: rest →
    step s = .next { s with
      moves := rest, err := .illegalCmd, res := .none, pending := none, busy := false, done := true })

/-! ### The step -/

/-- R45, R103: a step in which the engine moves is `exec` of the decoded pending command. That the engine moves where
the list says `.engine`, and when no move is left (the clause with `s.moves = []`), is the model's choice of log entries
1 and 11. -/
def Obligations.StepRunsTheDecodedCommand : Prop :=
  ∀ (s : State) (w : Word) (i : Instr), s.pending = some w → decode w = .ok i →
    (s.moves = [] → step s = exec i s) ∧
    (∀ rest, s.moves = .engine :: rest → step s = exec i { s with moves := rest })

/-- R216: with nothing pending and no host access, the block is idle and loses no state. -/
def Obligations.IdleStepChangesNothing : Prop :=
  ∀ s : State, s.pending = none →
    (s.moves = [] → step s = .next s) ∧
    (∀ rest, s.moves = .engine :: rest → step s = .next { s with moves := rest })

/-- R86, R205, R210, R248: the one stop of the machine is the host's race; every other step has a next state. -/
def Obligations.OnlyTheHostRaceStopsTheMachine : Prop :=
  ∀ s : State, (s.raceNext → step s = .fault .imageRace) ∧ (¬ s.raceNext → ∃ t, step s = .next t)

/-- R248, R45, R200: every accepted command completes, with its own effect. First clause: when the moves are used up
nothing is pending. Second clause: take the word `w` pending, and the moves up to the engine's next turn (`later` is what
follows it; there may be no such turn, and then the engine moves at the end), none of them a reset event. Unless the host
breaks its duty on the way (IMAGE_RACE), `w` is still pending when the engine moves, from the state `u`, and that step is
the completion of `w`: exactly what its command does, or ILLEGAL_CMD, with DONE = 1. When the engine moves is the choice
of log entries 1 and 11; the race as the end of the run is that of log entry 7. -/
def Obligations.EveryAcceptedCommandCompletes : Prop :=
  (∀ s : State, s.busy = s.pending.isSome →
    run (s.moves.length + 1) s = .fault .imageRace ∨
    ∃ t : State, run (s.moves.length + 1) s = .next t ∧
      t.busy = false ∧ t.pending = none ∧ t.moves = []) ∧
  (∀ (s : State) (w : Word) (before later : List Move), s.busy = true → s.pending = some w →
    (∀ m ∈ before, m ≠ .engine ∧ m ≠ .reset) →
    s.moves = before ++ .engine :: later ∨ (s.moves = before ∧ later = []) →
    run (before.length + 1) s = .fault .imageRace ∨
    ∃ u t : State, run before.length s = .next u ∧ u.busy = true ∧ u.pending = some w ∧
      run (before.length + 1) s = .next t ∧
      (∀ i, decode w = .ok i → exec i { u with moves := later } = .next t) ∧
      (∀ e, decode w = .error e →
        t = { u with
          moves := later, err := .illegalCmd, res := .none, pending := none, busy := false, done := true }) ∧
      t.done = true ∧ t.busy = false ∧ t.pending = none ∧ t.moves = later)

/-! ### NOP, TBLGEN, FPRINT -/

/-- R186: NOP completes with NONE, NONE and changes nothing else. -/
def Obligations.NopOnlyCompletes : Prop :=
  decode 0x00000000#32 = .ok .nop ∧
  ∀ s : State, exec .nop s =
    .next { s with err := .none, res := .none, pending := none, busy := false, done := true }

/-- R125, R120: TBLGEN writes every entry, sets TV, changes nothing else, and is idempotent. -/
def Obligations.TblgenBuildsTheTable : Prop :=
  decode 0x00000001#32 = .ok .tblgen ∧
  ∀ s : State, ∃ t : State, exec .tblgen s = .next t ∧
    t = { s with
      table := t.table, tv := true, err := .none, res := .none, pending := none, busy := false, done := true } ∧
    (∀ i : Fin 256, t.table[i] = Stated.shiftXor^[8] (BitVec.ofNat 32 i.val)) ∧
    exec .tblgen t = .next t

/-- R121: the listed entries, and linearity over GF(2). -/
def Obligations.TableEntriesAreLinear : Prop :=
  tableEntry 0 = 0x00000000#32 ∧ tableEntry 1 = 0x77073096#32 ∧ tableEntry 2 = 0xEE0E612C#32 ∧
  tableEntry 8 = 0x0EDB8832#32 ∧ tableEntry 16 = 0x1DB71064#32 ∧ tableEntry 64 = 0x76DC4190#32 ∧
  tableEntry 128 = 0xEDB88320#32 ∧ tableEntry 255 = 0x2D02EF8D#32 ∧
  ∀ i j : Byte, tableEntry (i ^^^ j) = tableEntry i ^^^ tableEntry j

/-- R120, R122: the table-driven byte update equals eight bit steps of the reflected CRC. -/
def Obligations.CrcStepEqualsEightBitSteps : Prop :=
  ∀ (acc : Word) (b : Byte), crcStep acc b = Stated.shiftXor^[8] (acc ^^^ b.setWidth 32)

/-- R122, R123: the fingerprint consumes each byte of the window once, in ascending order, from all ones, and
complements at the end. -/
def Obligations.FingerprintFoldsTheBytesInOrder : Prop :=
  (∀ (acc : Word) (b : Byte), crcStep acc b = (acc >>> 8) ^^^ tableEntry (((acc ^^^ b.setWidth 32) &&& 0xFF#32).setWidth 8)) ∧
  (∀ l : List Byte, fingerprintBytes l = ~~~ l.foldl crcStep 0xFFFFFFFF#32) ∧
  (∀ (m : Image) (base n : Nat), fingerprint m base n = fingerprintBytes (Stated.bytesFrom m base n))

/-- R124: fingerprints of short byte lists. -/
def Obligations.FingerprintCornerCases : Prop :=
  fingerprintBytes [] = 0x00000000#32 ∧ fingerprintBytes [0x00] = 0xD202EF8D#32 ∧
  fingerprintBytes [0xFF] = 0xFF000000#32 ∧ fingerprintBytes [0xFF, 0xFF, 0xFF, 0xFF] = 0xFFFFFFFF#32 ∧
  fingerprintBytes [0x31, 0x32, 0x33, 0x34, 0x35, 0x36, 0x37, 0x38, 0x39] = 0xCBF43926#32

/-- R127: FPRINT, on both sides of its bounds check. -/
def Obligations.FprintResult : Prop :=
  decode 0x00000002#32 = .ok .fprint ∧
  ∀ s : State,
    (s.imgLen.toNat < s.fpBase.toNat + s.fpLen.toNat →
      exec .fprint s =
        .next { s with err := .bounds, res := .none, pending := none, busy := false, done := true }) ∧
    (s.fpBase.toNat + s.fpLen.toNat ≤ s.imgLen.toNat →
      exec .fprint s = .next { s with
        table := if s.tv then s.table else builtTable, tv := true,
        fp := fingerprintBytes (Stated.bytesFrom s.image s.fpBase.toNat s.fpLen.toNat),
        err := .none, res := .none, pending := none, busy := false, done := true })

/-! ### CLASSIFY -/

/-- R140, R34: the exact lookup and the identity codes. -/
def Obligations.ClassifyIsTheExactLookup : Prop :=
  (∀ fp : Word,
    (classify fp = .known .cic6101 ↔ fp = 0x6170A4A1#32) ∧ (classify fp = .known .cic6102 ↔ fp = 0x90BB6CB5#32) ∧
    (classify fp = .known .cic6103 ↔ fp = 0x0B050EE0#32) ∧ (classify fp = .known .cic6105 ↔ fp = 0x98BC2C86#32) ∧
    (classify fp = .known .cic6106 ↔ fp = 0xACC8580A#32) ∧
    (classify fp = .unknown ↔ fp ∉ [0x6170A4A1#32, 0x90BB6CB5#32, 0x0B050EE0#32, 0x98BC2C86#32, 0xACC8580A#32])) ∧
  Identity.unknown.code = 0#3 ∧ (Identity.known .cic6101).code = 1#3 ∧ (Identity.known .cic6102).code = 2#3 ∧
  (Identity.known .cic6103).code = 3#3 ∧ (Identity.known .cic6105).code = 4#3 ∧ (Identity.known .cic6106).code = 5#3

/-- R142: CLASSIFY, on both sides of its bounds check; an Unknown result is no error. The values of BC_OFF and BC_LEN
(R7) are stated here, once; every use of the window is derived from the two constants (R8). -/
def Obligations.ClassifyResult : Prop :=
  decode 0x00000003#32 = .ok .classify ∧ Config.bcOff = 0x40 ∧ Config.bcLen = 0xF00 ∧
  ∀ s : State,
    (s.imgLen.toNat < Config.bcOff + Config.bcLen →
      exec .classify s =
        .next { s with err := .bounds, res := .none, pending := none, busy := false, done := true }) ∧
    (Config.bcOff + Config.bcLen ≤ s.imgLen.toNat →
      exec .classify s = .next { s with
        table := if s.tv then s.table else builtTable, tv := true,
        fp := fingerprintBytes (Stated.bootBytes s.image),
        id := classify (fingerprintBytes (Stated.bootBytes s.image)), cv := false,
        err := .none, res := .none, pending := none, busy := false, done := true })

/-- R141: the result depends on the bytes of the boot-code window only. -/
def Obligations.ClassifyDependsOnlyOnTheBootCode : Prop :=
  ∀ s s' t t' : State, Config.bcOff + Config.bcLen ≤ s.imgLen.toNat → Config.bcOff + Config.bcLen ≤ s'.imgLen.toNat →
    (∀ a, Config.bcOff ≤ a → a < Config.bcOff + Config.bcLen → readByte s.image a = readByte s'.image a) →
    exec .classify s = .next t → exec .classify s' = .next t' → t.fp = t'.fp ∧ t.id = t'.id

/-! ### CKSUM -/

/-- R153, R11: one mixing iteration, with the rotation and the carry written apart from the model's. -/
def Obligations.MixStepFollowsTheRule : Prop :=
  ∀ (acc : Acc) (d aux : Word) (c : Cic),
    (mixStep acc d aux c).a6.toNat = (acc.a6.toNat + d.toNat) % 2 ^ 32 ∧
    (mixStep acc d aux c).a4 = (if 2 ^ 32 ≤ acc.a6.toNat + d.toNat then acc.a4 + 1 else acc.a4) ∧
    (2 ^ 32 ≤ acc.a6.toNat + d.toNat ↔ (mixStep acc d aux c).a6.toNat < acc.a6.toNat) ∧
    (mixStep acc d aux c).a3 = acc.a3 ^^^ d ∧
    (mixStep acc d aux c).a5 = acc.a5 + d.rotateLeft (d.toNat % 32) ∧
    (mixStep acc d aux c).a2 =
      (if d.toNat < acc.a2.toNat then acc.a2 ^^^ d.rotateLeft (d.toNat % 32)
        else acc.a2 ^^^ ((mixStep acc d aux c).a6 ^^^ d)) ∧
    (mixStep acc d aux c).a1 =
      (if c = .cic6105 then acc.a1 + (aux ^^^ d) else acc.a1 + ((mixStep acc d aux c).a5 ^^^ d))

/-- R150, R155: the seeds and the three finalisations. -/
def Obligations.SeedsAndFinalisation : Prop :=
  seed .cic6101 = 0xF8CA4DDC#32 ∧ seed .cic6102 = 0xF8CA4DDC#32 ∧ seed .cic6103 = 0xA3886759#32 ∧
  seed .cic6105 = 0xDF26F436#32 ∧ seed .cic6106 = 0x1FEA617A#32 ∧
  ∀ a : Acc,
    finalize a .cic6103 = ((a.a6 ^^^ a.a4) + a.a3, (a.a5 ^^^ a.a2) + a.a1) ∧
    finalize a .cic6106 = (a.a6 * a.a4 + a.a3, a.a5 * a.a2 + a.a1) ∧
    ∀ c, c = .cic6101 ∨ c = .cic6102 ∨ c = .cic6105 →
      finalize a c = (a.a6 ^^^ a.a4 ^^^ a.a3, a.a5 ^^^ a.a2 ^^^ a.a1)

/-- R154: the auxiliary addresses are 4-aligned and inside 0x750..0x84C, and only CIC-6105 uses the word. -/
def Obligations.AuxiliaryReadsStayInTheirWindow : Prop :=
  (∀ k, k < 0x40000 → auxAddr (0x1000 + 4 * k) = 0x750 + 4 * k % 0x100 ∧ 4 ∣ auxAddr (0x1000 + 4 * k) ∧
    0x750 ≤ auxAddr (0x1000 + 4 * k) ∧ auxAddr (0x1000 + 4 * k) ≤ 0x84C) ∧
  (∀ (m : Image) (off : Nat), auxWord m .cic6105 off = readWord m (auxAddr off)) ∧
  (∀ (acc : Acc) (d aux aux' : Word) (c : Cic), c ≠ .cic6105 → mixStep acc d aux c = mixStep acc d aux' c)

/-- R157: CKSUM in its three cases, with the pass of R156 as a fold over the 0x40000 iterations. -/
def Obligations.CksumResult : Prop :=
  decode 0x00000004#32 = .ok .cksum ∧
  ∀ s : State,
    (s.imgLen.toNat < 0x101000 →
      exec .cksum s =
        .next { s with err := .bounds, res := .none, pending := none, busy := false, done := true }) ∧
    (0x101000 ≤ s.imgLen.toNat → s.id = .unknown →
      exec .cksum s =
        .next { s with err := .unidentified, res := .none, pending := none, busy := false, done := true }) ∧
    (∀ c, 0x101000 ≤ s.imgLen.toNat → s.id = .known c →
      exec .cksum s = .next { s with
        acc := Stated.checksumFold s.image c,
        ck0 := (finalize (Stated.checksumFold s.image c) c).1, ck1 := (finalize (Stated.checksumFold s.image c) c).2,
        cv := true, err := .none, res := .none, pending := none, busy := false, done := true })

/-- R158: the closed forms of acc[6], acc[4], acc[3] and acc[5] over the exact sum of the window. -/
def Obligations.ChecksumClosedForms : Prop :=
  ∀ (s t : State) (c : Cic), 0x101000 ≤ s.imgLen.toNat → s.id = .known c → exec .cksum s = .next t →
    t.acc.a6.toNat =
      ((seed c).toNat + ∑ k ∈ Finset.range 0x40000, (Stated.dataWord s.image k).toNat) % 2 ^ 32 ∧
    t.acc.a4.toNat =
      ((seed c).toNat +
        ((seed c).toNat + ∑ k ∈ Finset.range 0x40000, (Stated.dataWord s.image k).toNat) / 2 ^ 32) % 2 ^ 32 ∧
    t.acc.a3 = (List.range 0x40000).foldl (fun x k => x ^^^ Stated.dataWord s.image k) (seed c) ∧
    t.acc.a5.toNat =
      ((seed c).toNat + ∑ k ∈ Finset.range 0x40000,
        ((Stated.dataWord s.image k).rotateLeft ((Stated.dataWord s.image k).toNat % 32)).toNat) % 2 ^ 32

/-- R157: CIC-6101 and CIC-6102 give identical accumulators and checksum words on the same image. -/
def Obligations.Cic6101And6102ChecksumsAgree : Prop :=
  ∀ s t t' : State, 0x101000 ≤ s.imgLen.toNat →
    exec .cksum { s with id := .known .cic6101 } = .next t → exec .cksum { s with id := .known .cic6102 } = .next t' →
    t.acc = t'.acc ∧ t.ck0 = t'.ck0 ∧ t.ck1 = t'.ck1

/-! ### HDRFIX and FIX -/

/-- R183, R182: HDRFIX in its four cases; both words are read before either is written, and a word that matches is
not written. -/
def Obligations.HdrfixResult : Prop :=
  decode 0x00000005#32 = .ok .hdrfix ∧
  ∀ s : State,
    (s.imgLen.toNat < 0x18 →
      exec .hdrfix s =
        .next { s with err := .bounds, res := .none, pending := none, busy := false, done := true }) ∧
    (0x18 ≤ s.imgLen.toNat → s.cv = false → s.id = .unknown →
      exec .hdrfix s = .next { s with
        err := .unidentified, res := .unidentified, pending := none, busy := false, done := true }) ∧
    (0x18 ≤ s.imgLen.toNat → s.cv = false → s.id ≠ .unknown →
      exec .hdrfix s =
        .next { s with err := .noChecksum, res := .none, pending := none, busy := false, done := true }) ∧
    (0x18 ≤ s.imgLen.toNat → s.cv = true →
      exec .hdrfix s = .next { s with
        st0 := readWord s.image 0x10, st1 := readWord s.image 0x14,
        m0 := decide (readWord s.image 0x10 = s.ck0), m1 := decide (readWord s.image 0x14 = s.ck1),
        w0 := decide (readWord s.image 0x10 ≠ s.ck0), w1 := decide (readWord s.image 0x14 ≠ s.ck1),
        image :=
          if readWord s.image 0x14 = s.ck1 then
            (if readWord s.image 0x10 = s.ck0 then s.image else writeWord s.image 0x10 s.ck0)
          else writeWord (if readWord s.image 0x10 = s.ck0 then s.image else writeWord s.image 0x10 s.ck0) 0x14 s.ck1,
        err := .none,
        res := if readWord s.image 0x10 = s.ck0 ∧ readWord s.image 0x14 = s.ck1 then .alreadyCorrect else .fixed,
        pending := none, busy := false, done := true })

/-- R188: FIX in its three cases. -/
def Obligations.FixResult : Prop :=
  decode 0x00000006#32 = .ok .fix ∧
  ∀ s : State,
    (s.imgLen.toNat < 0x101000 →
      exec .fix s =
        .next { s with err := .bounds, res := .none, pending := none, busy := false, done := true }) ∧
    (0x101000 ≤ s.imgLen.toNat → classify (fingerprintBytes (Stated.bootBytes s.image)) = .unknown →
      exec .fix s = .next { s with
        table := if s.tv then s.table else builtTable, tv := true,
        fp := fingerprintBytes (Stated.bootBytes s.image), id := .unknown, cv := false,
        err := .unidentified, res := .unidentified, pending := none, busy := false, done := true }) ∧
    (∀ (c : Cic) (k0 k1 : Word), 0x101000 ≤ s.imgLen.toNat →
      classify (fingerprintBytes (Stated.bootBytes s.image)) = .known c →
      finalize (Stated.checksumFold s.image c) c = (k0, k1) →
      exec .fix s = .next { s with
        table := if s.tv then s.table else builtTable, tv := true,
        fp := fingerprintBytes (Stated.bootBytes s.image), id := .known c,
        acc := Stated.checksumFold s.image c, ck0 := k0, ck1 := k1, cv := true,
        st0 := readWord s.image 0x10, st1 := readWord s.image 0x14,
        m0 := decide (readWord s.image 0x10 = k0), m1 := decide (readWord s.image 0x14 = k1),
        w0 := decide (readWord s.image 0x10 ≠ k0), w1 := decide (readWord s.image 0x14 ≠ k1),
        image :=
          if readWord s.image 0x14 = k1 then
            (if readWord s.image 0x10 = k0 then s.image else writeWord s.image 0x10 k0)
          else writeWord (if readWord s.image 0x10 = k0 then s.image else writeWord s.image 0x10 k0) 0x14 k1,
        err := .none, res := if readWord s.image 0x10 = k0 ∧ readWord s.image 0x14 = k1 then .alreadyCorrect else .fixed,
        pending := none, busy := false, done := true })

/-- R187: FIX against CLASSIFY, CKSUM and HDRFIX accepted one after another. -/
def Obligations.FixEqualsItsThreeStages : Prop :=
  ∀ s : State, 0x101000 ≤ s.imgLen.toNat →
    ∃ s1 : State, exec .classify s = .next s1 ∧
      (s1.id = .unknown → exec .fix s = .next { s1 with err := .unidentified, res := .unidentified }) ∧
      (s1.id ≠ .unknown → ∃ s2 s3 : State,
        exec .cksum (s1.accept (encode .cksum)) = .next s2 ∧ exec .hdrfix (s2.accept (encode .hdrfix)) = .next s3 ∧
        exec .fix s = .next s3)

/-- R189: a second FIX on an image the host does not change writes no byte and reports ALREADY_CORRECT, or
UNIDENTIFIED if the first did. `r` is the state in which the second FIX is accepted: whatever the host did to the
registers in between, it has the image the first FIX left, and IMG_LEN still holds every window. -/
def Obligations.FixIsIdempotent : Prop :=
  ∀ s t r : State, Memory.wf s.image = true → 0x101000 ≤ s.imgLen.toNat → exec .fix s = .next t →
    r.image = t.image → 0x101000 ≤ r.imgLen.toNat →
    ∃ u : State, exec .fix (r.accept (encode .fix)) = .next u ∧ u.image = t.image ∧ u.w0 = false ∧ u.w1 = false ∧
      (t.res = .fixed ∨ t.res = .alreadyCorrect → u.res = .alreadyCorrect) ∧
      (t.res = .unidentified → u.res = .unidentified) ∧
      (t.res = .fixed ∨ t.res = .alreadyCorrect ∨ t.res = .unidentified)

/-- R185, R73, R75: after a HDRFIX or FIX that compared, both stored words equal the pair, whichever was written, byte
by byte big-endian; a word that was not written already held its value. -/
def Obligations.StoredPairIsConsistentAfterPatch : Prop :=
  ∀ (i : Instr) (s t : State), i = .hdrfix ∨ i = .fix → Memory.wf s.image = true → exec i s = .next t → t.err = .none →
    readWord t.image 0x10 = t.ck0 ∧ readWord t.image 0x14 = t.ck1 ∧
    readByte t.image 0x10 = t.ck0.extractLsb' 24 8 ∧ readByte t.image 0x11 = t.ck0.extractLsb' 16 8 ∧
    readByte t.image 0x12 = t.ck0.extractLsb' 8 8 ∧ readByte t.image 0x13 = t.ck0.extractLsb' 0 8 ∧
    readByte t.image 0x14 = t.ck1.extractLsb' 24 8 ∧ readByte t.image 0x15 = t.ck1.extractLsb' 16 8 ∧
    readByte t.image 0x16 = t.ck1.extractLsb' 8 8 ∧ readByte t.image 0x17 = t.ck1.extractLsb' 0 8 ∧
    (t.w0 = false → readWord s.image 0x10 = t.ck0) ∧ (t.w1 = false → readWord s.image 0x14 = t.ck1)

/-! ### Frames, errors and results of all commands -/

/-- R82, R190: no command changes an image byte outside 0x10-0x17. -/
def Obligations.CommandsWriteOnlyTheHeaderWords : Prop :=
  ∀ (i : Instr) (s t : State) (a : Nat), exec i s = .next t → a < 0x10 ∨ 0x18 ≤ a →
    readByte t.image a = readByte s.image a

/-- R182, R78: the memory frame of every command: 0x10-0x13 only where HDRFIX or FIX reports W0, 0x14-0x17 only where
it reports W1, and the other commands store nothing. -/
def Obligations.MemoryFrameOfEveryCommand : Prop :=
  ∀ (i : Instr) (s t : State), exec i s = .next t →
    (i ≠ .hdrfix → i ≠ .fix → t.image = s.image) ∧
    ∀ a, ¬(t.w0 = true ∧ 0x10 ≤ a ∧ a < 0x14) → ¬(t.w1 = true ∧ 0x14 ≤ a ∧ a < 0x18) →
      readByte t.image a = readByte s.image a

/-- R49, R78, R40, R41, R42, R39: the register frame of every command, command by command what it may write. -/
def Obligations.RegisterFrameOfEveryCommand : Prop :=
  ∀ (i : Instr) (s t : State), exec i s = .next t →
    (t.ovr = s.ovr ∧ t.ie = s.ie ∧ t.imgLen = s.imgLen ∧ t.fpBase = s.fpBase ∧ t.fpLen = s.fpLen ∧
      t.moves = s.moves ∧ t.readings = s.readings ∧ t.draws = s.draws) ∧
    (i ≠ .fprint → i ≠ .classify → i ≠ .fix → t.fp = s.fp) ∧
    (i ≠ .classify → i ≠ .fix → t.id = s.id) ∧
    (i ≠ .cksum → i ≠ .fix → t.acc = s.acc ∧ t.ck0 = s.ck0 ∧ t.ck1 = s.ck1) ∧
    (i ≠ .hdrfix → i ≠ .fix → t.st0 = s.st0 ∧ t.st1 = s.st1 ∧ t.m0 = s.m0 ∧ t.m1 = s.m1 ∧ t.w0 = s.w0 ∧ t.w1 = s.w1) ∧
    (i ≠ .tblgen → i ≠ .fprint → i ≠ .classify → i ≠ .fix → t.table = s.table ∧ t.tv = s.tv) ∧
    (i ≠ .classify → i ≠ .cksum → i ≠ .fix → t.cv = s.cv)

/-- R200: every command ends in `complete`: PENDING is nothing, BUSY 0 and DONE 1. -/
def Obligations.EveryCommandEndsInComplete : Prop :=
  ∀ (i : Instr) (s : State), ∃ t : State, exec i s = .next t ∧ t.pending = none ∧ t.busy = false ∧ t.done = true

/-- R203: what each error leaves behind; no error writes the image. -/
def Obligations.ErrorsChangeOnlyStatus : Prop :=
  ∀ (i : Instr) (s t : State), exec i s = .next t → t.err ≠ .none →
    t.image = s.image ∧
    (i ≠ .fix ∨ t.err ≠ .unidentified →
      t = { s with err := t.err, res := t.res, pending := none, busy := false, done := true }) ∧
    (i = .fix → t.err = .unidentified →
      t = { s with
        fp := t.fp, id := .unknown, cv := false, tv := true, table := t.table,
        err := .unidentified, res := .unidentified, pending := none, busy := false, done := true })

/-- R201, R204: which error each command reports, BOUNDS before UNIDENTIFIED before NO_CHECKSUM. -/
def Obligations.ErrorCodesByCauseAndPriority : Prop :=
  ∀ (i : Instr) (s t : State), exec i s = .next t →
    t.err ≠ .illegalCmd ∧
    (t.err = .bounds ↔
      (i = .fprint ∧ s.imgLen.toNat < s.fpBase.toNat + s.fpLen.toNat) ∨
      (i = .classify ∧ s.imgLen.toNat < Config.bcOff + Config.bcLen) ∨
      (i = .cksum ∧ s.imgLen.toNat < 0x101000) ∨ (i = .hdrfix ∧ s.imgLen.toNat < 0x18) ∨
      (i = .fix ∧ s.imgLen.toNat < 0x101000)) ∧
    (t.err = .unidentified ↔
      (i = .cksum ∧ 0x101000 ≤ s.imgLen.toNat ∧ s.id = .unknown) ∨
      (i = .hdrfix ∧ 0x18 ≤ s.imgLen.toNat ∧ s.cv = false ∧ s.id = .unknown) ∨
      (i = .fix ∧ 0x101000 ≤ s.imgLen.toNat ∧ t.id = .unknown)) ∧
    (t.err = .noChecksum ↔ i = .hdrfix ∧ 0x18 ≤ s.imgLen.toNat ∧ s.cv = false ∧ s.id ≠ .unknown)

/-- R202, R184: which result each command reports. -/
def Obligations.ResultCodesByOutcome : Prop :=
  ∀ (i : Instr) (s t : State), exec i s = .next t →
    (t.res = .fixed ↔ (i = .hdrfix ∨ i = .fix) ∧ t.err = .none ∧ (t.w0 = true ∨ t.w1 = true)) ∧
    (t.res = .alreadyCorrect ↔ (i = .hdrfix ∨ i = .fix) ∧ t.err = .none ∧ t.m0 = true ∧ t.m1 = true) ∧
    (t.res = .unidentified ↔ (i = .hdrfix ∨ i = .fix) ∧ t.err = .unidentified) ∧
    (t.res = .unidentified → t.id = .unknown ∧ t.image = s.image) ∧
    (t.res = .fixed → t.st0 ≠ t.ck0 ∨ t.st1 ≠ t.ck1) ∧
    (t.res = .alreadyCorrect → t.st0 = t.ck0 ∧ t.st1 = t.ck1 ∧ t.image = s.image)

/-! ### Registers -/

/-- R31, R201, R202: the STATUS word, bit by bit, and the codes of ERR and RES. -/
def Obligations.StatusWordLayout : Prop :=
  (∀ s : State,
    s.statusWord.getLsbD 0 = s.busy ∧ s.statusWord.getLsbD 1 = s.done ∧ s.statusWord.getLsbD 2 = s.tv ∧
    s.statusWord.getLsbD 3 = s.cv ∧ s.statusWord.getLsbD 4 = s.m0 ∧ s.statusWord.getLsbD 5 = s.m1 ∧
    s.statusWord.getLsbD 6 = s.w0 ∧ s.statusWord.getLsbD 7 = s.w1 ∧ s.statusWord.getLsbD 8 = s.ovr ∧
    s.statusWord.extractLsb' 9 3 = 0#3 ∧ s.statusWord.extractLsb' 12 4 = s.err.code ∧
    s.statusWord.extractLsb' 16 2 = s.res.code ∧ s.statusWord.extractLsb' 18 14 = 0#14) ∧
  ErrCode.none.code = 0#4 ∧ ErrCode.illegalCmd.code = 1#4 ∧ ErrCode.bounds.code = 2#4 ∧
  ErrCode.unidentified.code = 3#4 ∧ ErrCode.noChecksum.code = 4#4 ∧
  ResCode.none.code = 0#2 ∧ ResCode.fixed.code = 1#2 ∧ ResCode.alreadyCorrect.code = 2#2 ∧ ResCode.unidentified.code = 3#2

/-- R32: a write to STATUS clears DONE by bit 1 and OVR by bit 8, at any time, and does nothing else. -/
def Obligations.StatusWriteOneToClear : Prop :=
  ∀ (s : State) (v : Word) (rest : List Move), s.moves = .regWrite 1 v :: rest →
    step s = .next { s with
      moves := rest, done := if v.getLsbD 1 then false else s.done, ovr := if v.getLsbD 8 then false else s.ovr }

/-- R26, R45: CMD reads 0; a write is accepted while BUSY = 0, and ignored with OVR set while BUSY = 1. -/
def Obligations.CommandRegisterAccess : Prop :=
  ∀ (s : State) (rest : List Move),
    (s.moves = .regRead 0 :: rest →
      ∃ t : State, step s = .next t ∧ t.readings = .reg 0 0#32 :: s.readings) ∧
    (∀ w : Word, s.moves = .regWrite 0 w :: rest → s.busy = false →
      step s = .next { s with
        moves := rest, done := false, err := .none, res := .none, m0 := false, m1 := false, w0 := false, w1 := false,
        pending := some w, busy := true }) ∧
    (∀ w : Word, s.moves = .regWrite 0 w :: rest → s.busy = true →
      step s = .next { s with moves := rest, ovr := true })

/-- R33, R35, R37, R38: the writable registers while BUSY = 0 (CTRL at any time); an ID write clears CV and stores
UNKNOWN for codes 6 and 7. -/
def Obligations.WritableRegisters : Prop :=
  ∀ (s : State) (v : Word) (rest : List Move),
    (s.moves = .regWrite 2 v :: rest → step s = .next { s with moves := rest, ie := v.getLsbD 0 }) ∧
    (s.moves = .regWrite 3 v :: rest → s.busy = false →
      ∃ c : Identity, step s = .next { s with moves := rest, id := c, cv := false } ∧
        c.code = if (v.extractLsb' 0 3).toNat ≤ 5 then v.extractLsb' 0 3 else 0#3) ∧
    (s.moves = .regWrite 4 v :: rest → s.busy = false → step s = .next { s with moves := rest, imgLen := v }) ∧
    (s.moves = .regWrite 5 v :: rest → s.busy = false → step s = .next { s with moves := rest, fpBase := v }) ∧
    (s.moves = .regWrite 6 v :: rest → s.busy = false → step s = .next { s with moves := rest, fpLen := v })

/-- R25: while BUSY = 1 a write to CMD, ID, IMG_LEN, FP_BASE or FP_LEN only sets OVR. -/
def Obligations.BusyWritesOnlySetOvr : Prop :=
  ∀ (s : State) (idx : BitVec 10) (v : Word) (rest : List Move), s.moves = .regWrite idx v :: rest → s.busy = true →
    idx ∈ [0#10, 3#10, 4#10, 5#10, 6#10] → step s = .next { s with moves := rest, ovr := true }

/-- R24, R22: a write to a read-only register, to the TABLE window or to a reserved offset (every word address from
0x01C / 4 up) is ignored, BUSY or not, and does not set OVR. -/
def Obligations.ReadOnlyAndReservedWritesAreIgnored : Prop :=
  ∀ (s : State) (idx : BitVec 10) (v : Word) (rest : List Move), s.moves = .regWrite idx v :: rest → 7 ≤ idx.toNat →
    step s = .next { s with moves := rest }

/-- R21, R22, R43, R46: while BUSY = 0 a read returns exactly the register of the map: its value at its offset, 0 at a
reserved one, and a table entry only while TV = 1. The read changes nothing but the record of readings. -/
def Obligations.IdleReadsFollowTheRegisterMap : Prop :=
  ∀ (s : State) (idx : BitVec 10) (rest : List Move), s.moves = .regRead idx :: rest → s.busy = false →
    ∃ v : Word, step s = .next { s with moves := rest, readings := .reg idx v :: s.readings } ∧
      (idx = 0 → v = 0) ∧ (idx = 1 → v = s.statusWord) ∧ (idx = 2 → v = if s.ie then 1 else 0) ∧
      (idx = 3 → v = s.id.code.setWidth 32) ∧ (idx = 4 → v = s.imgLen) ∧ (idx = 5 → v = s.fpBase) ∧
      (idx = 6 → v = s.fpLen) ∧ (idx = 7 → v = s.fp) ∧ (idx = 8 → v = s.ck0) ∧ (idx = 9 → v = s.ck1) ∧
      (idx = 10 → v = s.st0) ∧ (idx = 11 → v = s.st1) ∧ (idx = 12 → v = s.acc.a1) ∧ (idx = 13 → v = s.acc.a2) ∧
      (idx = 14 → v = s.acc.a3) ∧ (idx = 15 → v = s.acc.a4) ∧ (idx = 16 → v = s.acc.a5) ∧ (idx = 17 → v = s.acc.a6) ∧
      (18 ≤ idx.toNat ∧ idx.toNat < 0x100 ∨ 0x200 ≤ idx.toNat → v = 0) ∧
      (∀ i : Fin 256, idx.toNat = 0x100 + i.val → v = if s.tv then s.table[i] else 0)

/-- R46: while BUSY = 1 a read of ID or of a result register is the next free draw; CMD, STATUS, CTRL, IMG_LEN,
FP_BASE, FP_LEN and reserved offsets read as defined; a TABLE read while TV = 0 is the gated 0, or, during a build only
(the pending command will build the table: log entry 17), that or the new entry. -/
def Obligations.BusyReads : Prop :=
  ∀ (s : State) (idx : BitVec 10) (rest : List Move), s.moves = .regRead idx :: rest → s.busy = true →
    ∃ v : Word,
      step s = .next { s with moves := rest, readings := .reg idx v :: s.readings, draws := s.draws + 1 } ∧
      (idx = 3 ∨ 7 ≤ idx.toNat ∧ idx.toNat ≤ 17 → v = Config.freeWord s.draws) ∧
      (idx = 0 → v = 0) ∧ (idx = 1 → v = s.statusWord) ∧ (idx = 2 → v = if s.ie then 1 else 0) ∧
      (idx = 4 → v = s.imgLen) ∧ (idx = 5 → v = s.fpBase) ∧ (idx = 6 → v = s.fpLen) ∧
      (18 ≤ idx.toNat ∧ idx.toNat < 0x100 ∨ 0x200 ≤ idx.toNat → v = 0) ∧
      (∀ i : Fin 256, idx.toNat = 0x100 + i.val →
        (s.tv = false → v = 0 ∨ Stated.buildsTable s ∧ v = tableEntry (BitVec.ofNat 8 i.val)) ∧
        (s.tv = true → s.table = builtTable → v = tableEntry (BitVec.ofNat 8 i.val)))

/-- R208, R47, R209: irq is DONE and CTRL.IE; every completion raises it when enabled, an erroneous one too;
acceptance and a write of 1 to DONE clear it. -/
def Obligations.InterruptOutput : Prop :=
  (∀ s : State, s.irq = (s.done && s.ie)) ∧ State.reset.irq = false ∧
  (∀ (s t : State) (w : Word), s.pending = some w → engineMove s = .next t → t.irq = s.ie ∧ t.done = true) ∧
  (∀ (s : State) (w : Word), (s.accept w).irq = false) ∧
  (∀ (s t : State) (v : Word) (rest : List Move), s.moves = .regWrite 1 v :: rest → v.getLsbD 1 = true →
    step s = .next t → t.irq = false)

/-! ### The image and the host -/

/-- R86, R210: a host image write below IMG_LEN while BUSY = 1 is IMAGE_RACE; any other is done, and changes that byte
only. -/
def Obligations.HostImageWrites : Prop :=
  ∀ (s : State) (a : Word) (b : Byte) (rest : List Move), s.moves = .imgWrite a b :: rest →
    (s.busy = true → a.toNat < s.imgLen.toNat → step s = .fault .imageRace) ∧
    (s.busy = false ∨ s.imgLen.toNat ≤ a.toNat →
      ∃ m : Image, step s = .next { s with moves := rest, image := m } ∧
        (∀ a', a' ≠ a.toNat → readByte m a' = readByte s.image a') ∧
        (Memory.wf s.image = true → readByte m a.toNat = b ∧ Memory.wf m = true))

/-- R87: a host image read returns the byte, but for a byte of 0x10-0x17 while BUSY = 1: there the byte before the
command or the byte the command's completion step leaves. -/
def Obligations.HostImageReads : Prop :=
  ∀ (s : State) (a : Word) (rest : List Move), s.moves = .imgRead a :: rest →
    (s.busy = false ∨ a.toNat < 0x10 ∨ 0x18 ≤ a.toNat →
      step s = .next { s with moves := rest, readings := .byte a (readByte s.image a.toNat) :: s.readings }) ∧
    (s.busy = true → 0x10 ≤ a.toNat → a.toNat < 0x18 →
      ∃ (b : Byte) (t : State), engineMove { s with moves := rest } = .next t ∧
        (b = readByte s.image a.toNat ∨ b = readByte t.image a.toNat) ∧
        step s = .next { s with
          moves := rest, readings := .byte a b :: s.readings, draws := s.draws + 1 })

/-- R21, R31, R230: the reset values. -/
def Obligations.ResetValues : Prop :=
  State.reset.statusWord = 0#32 ∧ State.reset.ctrlWord = 0#32 ∧ State.reset.idWord = 0#32 ∧ State.reset.imgLen = 0#32 ∧
  State.reset.fpBase = 0#32 ∧ State.reset.fpLen = 0#32 ∧ State.reset.fp = 0#32 ∧ State.reset.ck0 = 0#32 ∧
  State.reset.ck1 = 0#32 ∧ State.reset.st0 = 0#32 ∧ State.reset.st1 = 0#32 ∧ State.reset.acc = ⟨0, 0, 0, 0, 0, 0⟩ ∧
  State.reset.pending = none ∧ State.reset.irq = false ∧ (∀ i : Fin 256, State.reset.tableView i = 0#32)

/-- R230: a reset event while BUSY = 0 gives every register its reset value and does not touch the image. The table
storage takes the value the model names (log entry 3). -/
def Obligations.ResetWhileIdle : Prop :=
  ∀ (s : State) (rest : List Move), s.moves = .reset :: rest → s.busy = false →
    step s = .next { State.reset with
      image := s.image, moves := rest, readings := s.readings, draws := s.draws }

/-- R231: a reset event while BUSY = 1 abandons the command; each byte of 0x10-0x17 is the old one or the one the
command would have written, and every other byte is unchanged. -/
def Obligations.ResetDuringACommand : Prop :=
  ∀ (s : State) (rest : List Move), s.moves = .reset :: rest → s.busy = true →
    ∃ (m : Image) (u : State), engineMove { s with moves := rest } = .next u ∧
      step s = .next { State.reset with
        image := m, moves := rest, readings := s.readings, draws := s.draws + 8 } ∧
      (∀ a, a < 0x10 ∨ 0x18 ≤ a → readByte m a = readByte s.image a) ∧
      (Memory.wf s.image = true → ∀ a, 0x10 ≤ a → a < 0x18 →
        readByte m a = readByte s.image a ∨ readByte m a = readByte u.image a)

/-- R108: the expansions of the pseudo-instructions; `wait` with any number of polls, which is the model's form of the
polling loop (log entry 10), with the engine's turn where log entry 19 puts it. -/
def Obligations.PseudoInstructionExpansions : Prop :=
  (∀ i : Instr, HostStmt.expand (.cmd i) = [.regWrite 0 (encode i)]) ∧
  HostStmt.expand (.cmd .fix) = [.regWrite 0 0x00000006#32] ∧
  HostStmt.expand .clrdone = [.regWrite 1 0x00000002#32] ∧ HostStmt.expand .clrovr = [.regWrite 1 0x00000100#32] ∧
  (∀ i : Byte, HostStmt.expand (.tblrd i) = [.regRead (0x100#10 + i.setWidth 10)]) ∧
  (∀ n : Nat, HostStmt.expand (.wait n) = List.replicate n (.regRead 1) ++ [.engine, .regRead 1])

/-! ### Invariants and whole-machine rules -/

/-- The invariant of the model holds at reset. -/
def Obligations.ResetSatisfiesTheInvariant : Prop := State.reset.Inv

/-- Every step keeps the invariant: canonical image, BUSY with PENDING, CV with a known ID, TV with the built table,
clear outcome fields during a command, and outcome fields that agree. -/
def Obligations.EveryStepKeepsTheInvariant : Prop :=
  ∀ s t : State, s.Inv → step s = .next t → t.Inv

/-- R36: STATUS.CV = 1 implies ID.CODE ≠ 0. -/
def Obligations.ChecksumValidImpliesKnownIdentity : Prop :=
  (State.reset.cv = true → State.reset.id.code ≠ 0#3) ∧
  ∀ s t : State, (s.cv = true → s.id.code ≠ 0#3) → step s = .next t → t.cv = true → t.id.code ≠ 0#3

/-- R44: nothing but reset clears TV, and once TV = 1 the table stays TableEntry(i) for every i. -/
def Obligations.TableValidLastsUntilReset : Prop :=
  ∀ s t : State, step s = .next t → (∀ rest, s.moves ≠ .reset :: rest) → s.tv = true →
    t.tv = true ∧
    ((∀ i : Fin 256, s.table[i] = tableEntry (BitVec.ofNat 8 i.val)) →
      ∀ i : Fin 256, t.table[i] = tableEntry (BitVec.ofNat 8 i.val))

/-- R207: OVR stays set until the host writes 1 to STATUS bit 8 or the block is reset. -/
def Obligations.OverrunFlagIsSticky : Prop :=
  ∀ s t : State, step s = .next t → s.ovr = true →
    t.ovr = true ∨ (∃ rest, s.moves = .reset :: rest) ∨
    ∃ v rest, s.moves = .regWrite 1 v :: rest ∧ v.getLsbD 8 = true

/-- R24, R40, R41: the accumulators and the pair change only by reset or by the completion of CKSUM or FIX, and then
CV = 1 with the pair of that same computation. -/
def Obligations.OnlyCksumAndFixWriteThePair : Prop :=
  ∀ s t : State, step s = .next t → t.acc ≠ s.acc ∨ t.ck0 ≠ s.ck0 ∨ t.ck1 ≠ s.ck1 →
    (∃ rest, s.moves = .reset :: rest) ∨
    (s.pending = some (encode .cksum) ∨ s.pending = some (encode .fix)) ∧
      (s.moves = [] ∨ ∃ rest, s.moves = .engine :: rest) ∧ t.cv = true ∧
      ∃ c, t.id = .known c ∧ finalize t.acc c = (t.ck0, t.ck1)

/-- R16, R82, R231: an image byte changes only by a host write to it, or in 0x10-0x17 by the completion of HDRFIX or
FIX or by a reset while BUSY = 1. -/
def Obligations.ImageBytesChangeOnlyByTheseMoves : Prop :=
  ∀ (s t : State) (a : Nat), step s = .next t → readByte t.image a ≠ readByte s.image a →
    (∃ x b rest, s.moves = .imgWrite x b :: rest ∧ x.toNat = a) ∨
    (0x10 ≤ a ∧ a < 0x18) ∧
      ((s.pending = some (encode .hdrfix) ∨ s.pending = some (encode .fix)) ∧
          (s.moves = [] ∨ ∃ rest, s.moves = .engine :: rest) ∨
        s.busy = true ∧ ∃ rest, s.moves = .reset :: rest)

/-! ### What cannot be seen -/

/-- R37, R79: no command reads or writes an image byte at or beyond IMG_LEN: two states that differ only in such bytes
give the same registers, and each keeps its own bytes there. -/
def Obligations.BytesBeyondImgLenDoNotMatter : Prop :=
  ∀ (i : Instr) (s t : State) (m : Image), Memory.wf s.image = true → Memory.wf m = true →
    (∀ a, a < s.imgLen.toNat → readByte m a = readByte s.image a) → exec i s = .next t →
    ∃ m' : Image, exec i { s with image := m } = .next { t with image := m' } ∧
      (∀ a, a < s.imgLen.toNat → readByte m' a = readByte t.image a) ∧
      (∀ a, s.imgLen.toNat ≤ a → readByte m' a = readByte m a ∧ readByte t.image a = readByte s.image a)

/-- R44, R232: while TV = 0 the contents of the table storage cannot be seen: they change neither the outcome of a step
nor any field of the next state but the storage itself, and that no longer once TV = 1. -/
def Obligations.UnbuiltTableIsUnobservable : Prop :=
  ∀ (s t : State) (T : Vector Word 256), s.tv = false → step s = .next t →
    ∃ T' : Vector Word 256, step { s with table := T } = .next { t with table := T' } ∧ (t.tv = true → T' = t.table)

/-! ### Byte order -/

/-- R72, R73, R75: a word read is the big-endian sum of its four bytes, and a word write puts bits 31:24 at the lowest
address and changes no other byte. -/
def Obligations.ImageWordsAreBigEndian : Prop :=
  (∀ (m : Image) (a : Nat), (readWord m a).toNat =
    (readByte m a).toNat * 2 ^ 24 + (readByte m (a + 1)).toNat * 2 ^ 16 + (readByte m (a + 2)).toNat * 2 ^ 8 +
      (readByte m (a + 3)).toNat) ∧
  (∀ (m : Image) (a : Nat) (v : Word), Memory.wf m = true → a + 4 ≤ 2 ^ 32 →
    readByte (writeWord m a v) a = v.extractLsb' 24 8 ∧ readByte (writeWord m a v) (a + 1) = v.extractLsb' 16 8 ∧
    readByte (writeWord m a v) (a + 2) = v.extractLsb' 8 8 ∧ readByte (writeWord m a v) (a + 3) = v.extractLsb' 0 8 ∧
    (∀ b, b < a ∨ a + 4 ≤ b → readByte (writeWord m a v) b = readByte m b) ∧
    readWord (writeWord m a v) a = v ∧ Memory.wf (writeWord m a v) = true)
end

