-- ==== Sys2Proof/Laws/State.lean ====
section
/-! SUPPORT. One lemma per field per named update of `State`, so that no proof unfolds a record update. -/

namespace Sys2Proof.Machine

variable (s : State)

/-! ### `accept` -/

@[simp] theorem State.accept_busy (w : Word) : (s.accept w).busy = true := rfl
@[simp] theorem State.accept_pending (w : Word) : (s.accept w).pending = some w := rfl
@[simp] theorem State.accept_done (w : Word) : (s.accept w).done = false := rfl
@[simp] theorem State.accept_tv (w : Word) : (s.accept w).tv = s.tv := rfl
@[simp] theorem State.accept_cv (w : Word) : (s.accept w).cv = s.cv := rfl
@[simp] theorem State.accept_m0 (w : Word) : (s.accept w).m0 = false := rfl
@[simp] theorem State.accept_m1 (w : Word) : (s.accept w).m1 = false := rfl
@[simp] theorem State.accept_w0 (w : Word) : (s.accept w).w0 = false := rfl
@[simp] theorem State.accept_w1 (w : Word) : (s.accept w).w1 = false := rfl
@[simp] theorem State.accept_ovr (w : Word) : (s.accept w).ovr = s.ovr := rfl
@[simp] theorem State.accept_err (w : Word) : (s.accept w).err = .none := rfl
@[simp] theorem State.accept_res (w : Word) : (s.accept w).res = .none := rfl
@[simp] theorem State.accept_ie (w : Word) : (s.accept w).ie = s.ie := rfl
@[simp] theorem State.accept_id (w : Word) : (s.accept w).id = s.id := rfl
@[simp] theorem State.accept_imgLen (w : Word) : (s.accept w).imgLen = s.imgLen := rfl
@[simp] theorem State.accept_fpBase (w : Word) : (s.accept w).fpBase = s.fpBase := rfl
@[simp] theorem State.accept_fpLen (w : Word) : (s.accept w).fpLen = s.fpLen := rfl
@[simp] theorem State.accept_fp (w : Word) : (s.accept w).fp = s.fp := rfl
@[simp] theorem State.accept_ck0 (w : Word) : (s.accept w).ck0 = s.ck0 := rfl
@[simp] theorem State.accept_ck1 (w : Word) : (s.accept w).ck1 = s.ck1 := rfl
@[simp] theorem State.accept_st0 (w : Word) : (s.accept w).st0 = s.st0 := rfl
@[simp] theorem State.accept_st1 (w : Word) : (s.accept w).st1 = s.st1 := rfl
@[simp] theorem State.accept_acc (w : Word) : (s.accept w).acc = s.acc := rfl
@[simp] theorem State.accept_table (w : Word) : (s.accept w).table = s.table := rfl
@[simp] theorem State.accept_image (w : Word) : (s.accept w).image = s.image := rfl
@[simp] theorem State.accept_moves (w : Word) : (s.accept w).moves = s.moves := rfl
@[simp] theorem State.accept_readings (w : Word) : (s.accept w).readings = s.readings := rfl
@[simp] theorem State.accept_draws (w : Word) : (s.accept w).draws = s.draws := rfl

/-! ### `complete` -/

@[simp] theorem State.complete_busy (e : ErrCode) (r : ResCode) : (s.complete e r).busy = false := rfl
@[simp] theorem State.complete_pending (e : ErrCode) (r : ResCode) : (s.complete e r).pending = none := rfl
@[simp] theorem State.complete_done (e : ErrCode) (r : ResCode) : (s.complete e r).done = true := rfl
@[simp] theorem State.complete_tv (e : ErrCode) (r : ResCode) : (s.complete e r).tv = s.tv := rfl
@[simp] theorem State.complete_cv (e : ErrCode) (r : ResCode) : (s.complete e r).cv = s.cv := rfl
@[simp] theorem State.complete_m0 (e : ErrCode) (r : ResCode) : (s.complete e r).m0 = s.m0 := rfl
@[simp] theorem State.complete_m1 (e : ErrCode) (r : ResCode) : (s.complete e r).m1 = s.m1 := rfl
@[simp] theorem State.complete_w0 (e : ErrCode) (r : ResCode) : (s.complete e r).w0 = s.w0 := rfl
@[simp] theorem State.complete_w1 (e : ErrCode) (r : ResCode) : (s.complete e r).w1 = s.w1 := rfl
@[simp] theorem State.complete_ovr (e : ErrCode) (r : ResCode) : (s.complete e r).ovr = s.ovr := rfl
@[simp] theorem State.complete_err (e : ErrCode) (r : ResCode) : (s.complete e r).err = e := rfl
@[simp] theorem State.complete_res (e : ErrCode) (r : ResCode) : (s.complete e r).res = r := rfl
@[simp] theorem State.complete_ie (e : ErrCode) (r : ResCode) : (s.complete e r).ie = s.ie := rfl
@[simp] theorem State.complete_id (e : ErrCode) (r : ResCode) : (s.complete e r).id = s.id := rfl
@[simp] theorem State.complete_imgLen (e : ErrCode) (r : ResCode) : (s.complete e r).imgLen = s.imgLen := rfl
@[simp] theorem State.complete_fpBase (e : ErrCode) (r : ResCode) : (s.complete e r).fpBase = s.fpBase := rfl
@[simp] theorem State.complete_fpLen (e : ErrCode) (r : ResCode) : (s.complete e r).fpLen = s.fpLen := rfl
@[simp] theorem State.complete_fp (e : ErrCode) (r : ResCode) : (s.complete e r).fp = s.fp := rfl
@[simp] theorem State.complete_ck0 (e : ErrCode) (r : ResCode) : (s.complete e r).ck0 = s.ck0 := rfl
@[simp] theorem State.complete_ck1 (e : ErrCode) (r : ResCode) : (s.complete e r).ck1 = s.ck1 := rfl
@[simp] theorem State.complete_st0 (e : ErrCode) (r : ResCode) : (s.complete e r).st0 = s.st0 := rfl
@[simp] theorem State.complete_st1 (e : ErrCode) (r : ResCode) : (s.complete e r).st1 = s.st1 := rfl
@[simp] theorem State.complete_acc (e : ErrCode) (r : ResCode) : (s.complete e r).acc = s.acc := rfl
@[simp] theorem State.complete_table (e : ErrCode) (r : ResCode) : (s.complete e r).table = s.table := rfl
@[simp] theorem State.complete_image (e : ErrCode) (r : ResCode) : (s.complete e r).image = s.image := rfl
@[simp] theorem State.complete_moves (e : ErrCode) (r : ResCode) : (s.complete e r).moves = s.moves := rfl
@[simp] theorem State.complete_readings (e : ErrCode) (r : ResCode) : (s.complete e r).readings = s.readings := rfl
@[simp] theorem State.complete_draws (e : ErrCode) (r : ResCode) : (s.complete e r).draws = s.draws := rfl

/-! ### `logReading` -/

@[simp] theorem State.logReading_busy (x : Reading) (n : Nat) : (s.logReading x n).busy = s.busy := rfl
@[simp] theorem State.logReading_pending (x : Reading) (n : Nat) : (s.logReading x n).pending = s.pending := rfl
@[simp] theorem State.logReading_done (x : Reading) (n : Nat) : (s.logReading x n).done = s.done := rfl
@[simp] theorem State.logReading_tv (x : Reading) (n : Nat) : (s.logReading x n).tv = s.tv := rfl
@[simp] theorem State.logReading_cv (x : Reading) (n : Nat) : (s.logReading x n).cv = s.cv := rfl
@[simp] theorem State.logReading_m0 (x : Reading) (n : Nat) : (s.logReading x n).m0 = s.m0 := rfl
@[simp] theorem State.logReading_m1 (x : Reading) (n : Nat) : (s.logReading x n).m1 = s.m1 := rfl
@[simp] theorem State.logReading_w0 (x : Reading) (n : Nat) : (s.logReading x n).w0 = s.w0 := rfl
@[simp] theorem State.logReading_w1 (x : Reading) (n : Nat) : (s.logReading x n).w1 = s.w1 := rfl
@[simp] theorem State.logReading_ovr (x : Reading) (n : Nat) : (s.logReading x n).ovr = s.ovr := rfl
@[simp] theorem State.logReading_err (x : Reading) (n : Nat) : (s.logReading x n).err = s.err := rfl
@[simp] theorem State.logReading_res (x : Reading) (n : Nat) : (s.logReading x n).res = s.res := rfl
@[simp] theorem State.logReading_ie (x : Reading) (n : Nat) : (s.logReading x n).ie = s.ie := rfl
@[simp] theorem State.logReading_id (x : Reading) (n : Nat) : (s.logReading x n).id = s.id := rfl
@[simp] theorem State.logReading_imgLen (x : Reading) (n : Nat) : (s.logReading x n).imgLen = s.imgLen := rfl
@[simp] theorem State.logReading_fpBase (x : Reading) (n : Nat) : (s.logReading x n).fpBase = s.fpBase := rfl
@[simp] theorem State.logReading_fpLen (x : Reading) (n : Nat) : (s.logReading x n).fpLen = s.fpLen := rfl
@[simp] theorem State.logReading_fp (x : Reading) (n : Nat) : (s.logReading x n).fp = s.fp := rfl
@[simp] theorem State.logReading_ck0 (x : Reading) (n : Nat) : (s.logReading x n).ck0 = s.ck0 := rfl
@[simp] theorem State.logReading_ck1 (x : Reading) (n : Nat) : (s.logReading x n).ck1 = s.ck1 := rfl
@[simp] theorem State.logReading_st0 (x : Reading) (n : Nat) : (s.logReading x n).st0 = s.st0 := rfl
@[simp] theorem State.logReading_st1 (x : Reading) (n : Nat) : (s.logReading x n).st1 = s.st1 := rfl
@[simp] theorem State.logReading_acc (x : Reading) (n : Nat) : (s.logReading x n).acc = s.acc := rfl
@[simp] theorem State.logReading_table (x : Reading) (n : Nat) : (s.logReading x n).table = s.table := rfl
@[simp] theorem State.logReading_image (x : Reading) (n : Nat) : (s.logReading x n).image = s.image := rfl
@[simp] theorem State.logReading_moves (x : Reading) (n : Nat) : (s.logReading x n).moves = s.moves := rfl
@[simp] theorem State.logReading_readings (x : Reading) (n : Nat) :
    (s.logReading x n).readings = x :: s.readings := rfl
@[simp] theorem State.logReading_draws (x : Reading) (n : Nat) : (s.logReading x n).draws = s.draws + n := rfl

/-! ### `writeStatus` -/

@[simp] theorem State.writeStatus_busy (v : Word) : (s.writeStatus v).busy = s.busy := rfl
@[simp] theorem State.writeStatus_pending (v : Word) : (s.writeStatus v).pending = s.pending := rfl
@[simp] theorem State.writeStatus_done (v : Word) : (s.writeStatus v).done = (s.done && !v.getLsbD 1) := rfl
@[simp] theorem State.writeStatus_tv (v : Word) : (s.writeStatus v).tv = s.tv := rfl
@[simp] theorem State.writeStatus_cv (v : Word) : (s.writeStatus v).cv = s.cv := rfl
@[simp] theorem State.writeStatus_m0 (v : Word) : (s.writeStatus v).m0 = s.m0 := rfl
@[simp] theorem State.writeStatus_m1 (v : Word) : (s.writeStatus v).m1 = s.m1 := rfl
@[simp] theorem State.writeStatus_w0 (v : Word) : (s.writeStatus v).w0 = s.w0 := rfl
@[simp] theorem State.writeStatus_w1 (v : Word) : (s.writeStatus v).w1 = s.w1 := rfl
@[simp] theorem State.writeStatus_ovr (v : Word) : (s.writeStatus v).ovr = (s.ovr && !v.getLsbD 8) := rfl
@[simp] theorem State.writeStatus_err (v : Word) : (s.writeStatus v).err = s.err := rfl
@[simp] theorem State.writeStatus_res (v : Word) : (s.writeStatus v).res = s.res := rfl
@[simp] theorem State.writeStatus_ie (v : Word) : (s.writeStatus v).ie = s.ie := rfl
@[simp] theorem State.writeStatus_id (v : Word) : (s.writeStatus v).id = s.id := rfl
@[simp] theorem State.writeStatus_imgLen (v : Word) : (s.writeStatus v).imgLen = s.imgLen := rfl
@[simp] theorem State.writeStatus_fpBase (v : Word) : (s.writeStatus v).fpBase = s.fpBase := rfl
@[simp] theorem State.writeStatus_fpLen (v : Word) : (s.writeStatus v).fpLen = s.fpLen := rfl
@[simp] theorem State.writeStatus_fp (v : Word) : (s.writeStatus v).fp = s.fp := rfl
@[simp] theorem State.writeStatus_ck0 (v : Word) : (s.writeStatus v).ck0 = s.ck0 := rfl
@[simp] theorem State.writeStatus_ck1 (v : Word) : (s.writeStatus v).ck1 = s.ck1 := rfl
@[simp] theorem State.writeStatus_st0 (v : Word) : (s.writeStatus v).st0 = s.st0 := rfl
@[simp] theorem State.writeStatus_st1 (v : Word) : (s.writeStatus v).st1 = s.st1 := rfl
@[simp] theorem State.writeStatus_acc (v : Word) : (s.writeStatus v).acc = s.acc := rfl
@[simp] theorem State.writeStatus_table (v : Word) : (s.writeStatus v).table = s.table := rfl
@[simp] theorem State.writeStatus_image (v : Word) : (s.writeStatus v).image = s.image := rfl
@[simp] theorem State.writeStatus_moves (v : Word) : (s.writeStatus v).moves = s.moves := rfl
@[simp] theorem State.writeStatus_readings (v : Word) : (s.writeStatus v).readings = s.readings := rfl
@[simp] theorem State.writeStatus_draws (v : Word) : (s.writeStatus v).draws = s.draws := rfl

/-! ### `buildTable` -/

@[simp] theorem State.buildTable_busy : s.buildTable.busy = s.busy := rfl
@[simp] theorem State.buildTable_pending : s.buildTable.pending = s.pending := rfl
@[simp] theorem State.buildTable_done : s.buildTable.done = s.done := rfl
@[simp] theorem State.buildTable_tv : s.buildTable.tv = true := rfl
@[simp] theorem State.buildTable_cv : s.buildTable.cv = s.cv := rfl
@[simp] theorem State.buildTable_m0 : s.buildTable.m0 = s.m0 := rfl
@[simp] theorem State.buildTable_m1 : s.buildTable.m1 = s.m1 := rfl
@[simp] theorem State.buildTable_w0 : s.buildTable.w0 = s.w0 := rfl
@[simp] theorem State.buildTable_w1 : s.buildTable.w1 = s.w1 := rfl
@[simp] theorem State.buildTable_ovr : s.buildTable.ovr = s.ovr := rfl
@[simp] theorem State.buildTable_err : s.buildTable.err = s.err := rfl
@[simp] theorem State.buildTable_res : s.buildTable.res = s.res := rfl
@[simp] theorem State.buildTable_ie : s.buildTable.ie = s.ie := rfl
@[simp] theorem State.buildTable_id : s.buildTable.id = s.id := rfl
@[simp] theorem State.buildTable_imgLen : s.buildTable.imgLen = s.imgLen := rfl
@[simp] theorem State.buildTable_fpBase : s.buildTable.fpBase = s.fpBase := rfl
@[simp] theorem State.buildTable_fpLen : s.buildTable.fpLen = s.fpLen := rfl
@[simp] theorem State.buildTable_fp : s.buildTable.fp = s.fp := rfl
@[simp] theorem State.buildTable_ck0 : s.buildTable.ck0 = s.ck0 := rfl
@[simp] theorem State.buildTable_ck1 : s.buildTable.ck1 = s.ck1 := rfl
@[simp] theorem State.buildTable_st0 : s.buildTable.st0 = s.st0 := rfl
@[simp] theorem State.buildTable_st1 : s.buildTable.st1 = s.st1 := rfl
@[simp] theorem State.buildTable_acc : s.buildTable.acc = s.acc := rfl
@[simp] theorem State.buildTable_table : s.buildTable.table = builtTable := rfl
@[simp] theorem State.buildTable_image : s.buildTable.image = s.image := rfl
@[simp] theorem State.buildTable_moves : s.buildTable.moves = s.moves := rfl
@[simp] theorem State.buildTable_readings : s.buildTable.readings = s.readings := rfl
@[simp] theorem State.buildTable_draws : s.buildTable.draws = s.draws := rfl

/-! ### `ensureTable` -/

@[simp] theorem State.ensureTable_busy : s.ensureTable.busy = s.busy := by
  unfold State.ensureTable; split <;> rfl
@[simp] theorem State.ensureTable_pending : s.ensureTable.pending = s.pending := by
  unfold State.ensureTable; split <;> rfl
@[simp] theorem State.ensureTable_done : s.ensureTable.done = s.done := by
  unfold State.ensureTable; split <;> rfl
@[simp] theorem State.ensureTable_tv : s.ensureTable.tv = true := by
  unfold State.ensureTable; split <;> simp_all
@[simp] theorem State.ensureTable_cv : s.ensureTable.cv = s.cv := by
  unfold State.ensureTable; split <;> rfl
@[simp] theorem State.ensureTable_m0 : s.ensureTable.m0 = s.m0 := by
  unfold State.ensureTable; split <;> rfl
@[simp] theorem State.ensureTable_m1 : s.ensureTable.m1 = s.m1 := by
  unfold State.ensureTable; split <;> rfl
@[simp] theorem State.ensureTable_w0 : s.ensureTable.w0 = s.w0 := by
  unfold State.ensureTable; split <;> rfl
@[simp] theorem State.ensureTable_w1 : s.ensureTable.w1 = s.w1 := by
  unfold State.ensureTable; split <;> rfl
@[simp] theorem State.ensureTable_ovr : s.ensureTable.ovr = s.ovr := by
  unfold State.ensureTable; split <;> rfl
@[simp] theorem State.ensureTable_err : s.ensureTable.err = s.err := by
  unfold State.ensureTable; split <;> rfl
@[simp] theorem State.ensureTable_res : s.ensureTable.res = s.res := by
  unfold State.ensureTable; split <;> rfl
@[simp] theorem State.ensureTable_ie : s.ensureTable.ie = s.ie := by
  unfold State.ensureTable; split <;> rfl
@[simp] theorem State.ensureTable_id : s.ensureTable.id = s.id := by
  unfold State.ensureTable; split <;> rfl
@[simp] theorem State.ensureTable_imgLen : s.ensureTable.imgLen = s.imgLen := by
  unfold State.ensureTable; split <;> rfl
@[simp] theorem State.ensureTable_fpBase : s.ensureTable.fpBase = s.fpBase := by
  unfold State.ensureTable; split <;> rfl
@[simp] theorem State.ensureTable_fpLen : s.ensureTable.fpLen = s.fpLen := by
  unfold State.ensureTable; split <;> rfl
@[simp] theorem State.ensureTable_fp : s.ensureTable.fp = s.fp := by
  unfold State.ensureTable; split <;> rfl
@[simp] theorem State.ensureTable_ck0 : s.ensureTable.ck0 = s.ck0 := by
  unfold State.ensureTable; split <;> rfl
@[simp] theorem State.ensureTable_ck1 : s.ensureTable.ck1 = s.ck1 := by
  unfold State.ensureTable; split <;> rfl
@[simp] theorem State.ensureTable_st0 : s.ensureTable.st0 = s.st0 := by
  unfold State.ensureTable; split <;> rfl
@[simp] theorem State.ensureTable_st1 : s.ensureTable.st1 = s.st1 := by
  unfold State.ensureTable; split <;> rfl
@[simp] theorem State.ensureTable_acc : s.ensureTable.acc = s.acc := by
  unfold State.ensureTable; split <;> rfl
@[simp] theorem State.ensureTable_table : s.ensureTable.table = if s.tv then s.table else builtTable := by
  unfold State.ensureTable; split <;> simp_all
@[simp] theorem State.ensureTable_image : s.ensureTable.image = s.image := by
  unfold State.ensureTable; split <;> rfl
@[simp] theorem State.ensureTable_moves : s.ensureTable.moves = s.moves := by
  unfold State.ensureTable; split <;> rfl
@[simp] theorem State.ensureTable_readings : s.ensureTable.readings = s.readings := by
  unfold State.ensureTable; split <;> rfl
@[simp] theorem State.ensureTable_draws : s.ensureTable.draws = s.draws := by
  unfold State.ensureTable; split <;> rfl

/-! ### `classifyImage` -/

@[simp] theorem State.classifyImage_busy : s.classifyImage.busy = s.busy := rfl
@[simp] theorem State.classifyImage_pending : s.classifyImage.pending = s.pending := rfl
@[simp] theorem State.classifyImage_done : s.classifyImage.done = s.done := rfl
@[simp] theorem State.classifyImage_tv : s.classifyImage.tv = s.tv := rfl
@[simp] theorem State.classifyImage_cv : s.classifyImage.cv = false := rfl
@[simp] theorem State.classifyImage_m0 : s.classifyImage.m0 = s.m0 := rfl
@[simp] theorem State.classifyImage_m1 : s.classifyImage.m1 = s.m1 := rfl
@[simp] theorem State.classifyImage_w0 : s.classifyImage.w0 = s.w0 := rfl
@[simp] theorem State.classifyImage_w1 : s.classifyImage.w1 = s.w1 := rfl
@[simp] theorem State.classifyImage_ovr : s.classifyImage.ovr = s.ovr := rfl
@[simp] theorem State.classifyImage_err : s.classifyImage.err = s.err := rfl
@[simp] theorem State.classifyImage_res : s.classifyImage.res = s.res := rfl
@[simp] theorem State.classifyImage_ie : s.classifyImage.ie = s.ie := rfl
@[simp] theorem State.classifyImage_id : s.classifyImage.id = classify (bootFingerprint s.image) := rfl
@[simp] theorem State.classifyImage_imgLen : s.classifyImage.imgLen = s.imgLen := rfl
@[simp] theorem State.classifyImage_fpBase : s.classifyImage.fpBase = s.fpBase := rfl
@[simp] theorem State.classifyImage_fpLen : s.classifyImage.fpLen = s.fpLen := rfl
@[simp] theorem State.classifyImage_fp : s.classifyImage.fp = bootFingerprint s.image := rfl
@[simp] theorem State.classifyImage_ck0 : s.classifyImage.ck0 = s.ck0 := rfl
@[simp] theorem State.classifyImage_ck1 : s.classifyImage.ck1 = s.ck1 := rfl
@[simp] theorem State.classifyImage_st0 : s.classifyImage.st0 = s.st0 := rfl
@[simp] theorem State.classifyImage_st1 : s.classifyImage.st1 = s.st1 := rfl
@[simp] theorem State.classifyImage_acc : s.classifyImage.acc = s.acc := rfl
@[simp] theorem State.classifyImage_table : s.classifyImage.table = s.table := rfl
@[simp] theorem State.classifyImage_image : s.classifyImage.image = s.image := rfl
@[simp] theorem State.classifyImage_moves : s.classifyImage.moves = s.moves := rfl
@[simp] theorem State.classifyImage_readings : s.classifyImage.readings = s.readings := rfl
@[simp] theorem State.classifyImage_draws : s.classifyImage.draws = s.draws := rfl

/-! ### `latchChecksum` -/

@[simp] theorem State.latchChecksum_busy (c : Cic) : (s.latchChecksum c).busy = s.busy := rfl
@[simp] theorem State.latchChecksum_pending (c : Cic) : (s.latchChecksum c).pending = s.pending := rfl
@[simp] theorem State.latchChecksum_done (c : Cic) : (s.latchChecksum c).done = s.done := rfl
@[simp] theorem State.latchChecksum_tv (c : Cic) : (s.latchChecksum c).tv = s.tv := rfl
@[simp] theorem State.latchChecksum_cv (c : Cic) : (s.latchChecksum c).cv = true := rfl
@[simp] theorem State.latchChecksum_m0 (c : Cic) : (s.latchChecksum c).m0 = s.m0 := rfl
@[simp] theorem State.latchChecksum_m1 (c : Cic) : (s.latchChecksum c).m1 = s.m1 := rfl
@[simp] theorem State.latchChecksum_w0 (c : Cic) : (s.latchChecksum c).w0 = s.w0 := rfl
@[simp] theorem State.latchChecksum_w1 (c : Cic) : (s.latchChecksum c).w1 = s.w1 := rfl
@[simp] theorem State.latchChecksum_ovr (c : Cic) : (s.latchChecksum c).ovr = s.ovr := rfl
@[simp] theorem State.latchChecksum_err (c : Cic) : (s.latchChecksum c).err = s.err := rfl
@[simp] theorem State.latchChecksum_res (c : Cic) : (s.latchChecksum c).res = s.res := rfl
@[simp] theorem State.latchChecksum_ie (c : Cic) : (s.latchChecksum c).ie = s.ie := rfl
@[simp] theorem State.latchChecksum_id (c : Cic) : (s.latchChecksum c).id = s.id := rfl
@[simp] theorem State.latchChecksum_imgLen (c : Cic) : (s.latchChecksum c).imgLen = s.imgLen := rfl
@[simp] theorem State.latchChecksum_fpBase (c : Cic) : (s.latchChecksum c).fpBase = s.fpBase := rfl
@[simp] theorem State.latchChecksum_fpLen (c : Cic) : (s.latchChecksum c).fpLen = s.fpLen := rfl
@[simp] theorem State.latchChecksum_fp (c : Cic) : (s.latchChecksum c).fp = s.fp := rfl
@[simp] theorem State.latchChecksum_ck0 (c : Cic) :
    (s.latchChecksum c).ck0 = (finalize (checksumAcc s.image c) c).1 := rfl
@[simp] theorem State.latchChecksum_ck1 (c : Cic) :
    (s.latchChecksum c).ck1 = (finalize (checksumAcc s.image c) c).2 := rfl
@[simp] theorem State.latchChecksum_st0 (c : Cic) : (s.latchChecksum c).st0 = s.st0 := rfl
@[simp] theorem State.latchChecksum_st1 (c : Cic) : (s.latchChecksum c).st1 = s.st1 := rfl
@[simp] theorem State.latchChecksum_acc (c : Cic) : (s.latchChecksum c).acc = checksumAcc s.image c := rfl
@[simp] theorem State.latchChecksum_table (c : Cic) : (s.latchChecksum c).table = s.table := rfl
@[simp] theorem State.latchChecksum_image (c : Cic) : (s.latchChecksum c).image = s.image := rfl
@[simp] theorem State.latchChecksum_moves (c : Cic) : (s.latchChecksum c).moves = s.moves := rfl
@[simp] theorem State.latchChecksum_readings (c : Cic) : (s.latchChecksum c).readings = s.readings := rfl
@[simp] theorem State.latchChecksum_draws (c : Cic) : (s.latchChecksum c).draws = s.draws := rfl

/-! ### `headerFix` -/

@[simp] theorem State.headerFix_busy : s.headerFix.busy = false := rfl
@[simp] theorem State.headerFix_pending : s.headerFix.pending = none := rfl
@[simp] theorem State.headerFix_done : s.headerFix.done = true := rfl
@[simp] theorem State.headerFix_tv : s.headerFix.tv = s.tv := rfl
@[simp] theorem State.headerFix_cv : s.headerFix.cv = s.cv := rfl
@[simp] theorem State.headerFix_m0 : s.headerFix.m0 = decide (storedWord0 s.image = s.ck0) := rfl
@[simp] theorem State.headerFix_m1 : s.headerFix.m1 = decide (storedWord1 s.image = s.ck1) := rfl
@[simp] theorem State.headerFix_w0 : s.headerFix.w0 = !decide (storedWord0 s.image = s.ck0) := rfl
@[simp] theorem State.headerFix_w1 : s.headerFix.w1 = !decide (storedWord1 s.image = s.ck1) := rfl
@[simp] theorem State.headerFix_ovr : s.headerFix.ovr = s.ovr := rfl
@[simp] theorem State.headerFix_err : s.headerFix.err = .none := rfl
@[simp] theorem State.headerFix_res :
    s.headerFix.res = (if !decide (storedWord0 s.image = s.ck0) || !decide (storedWord1 s.image = s.ck1) then .fixed else .alreadyCorrect) := rfl
@[simp] theorem State.headerFix_ie : s.headerFix.ie = s.ie := rfl
@[simp] theorem State.headerFix_id : s.headerFix.id = s.id := rfl
@[simp] theorem State.headerFix_imgLen : s.headerFix.imgLen = s.imgLen := rfl
@[simp] theorem State.headerFix_fpBase : s.headerFix.fpBase = s.fpBase := rfl
@[simp] theorem State.headerFix_fpLen : s.headerFix.fpLen = s.fpLen := rfl
@[simp] theorem State.headerFix_fp : s.headerFix.fp = s.fp := rfl
@[simp] theorem State.headerFix_ck0 : s.headerFix.ck0 = s.ck0 := rfl
@[simp] theorem State.headerFix_ck1 : s.headerFix.ck1 = s.ck1 := rfl
@[simp] theorem State.headerFix_st0 : s.headerFix.st0 = storedWord0 s.image := rfl
@[simp] theorem State.headerFix_st1 : s.headerFix.st1 = storedWord1 s.image := rfl
@[simp] theorem State.headerFix_acc : s.headerFix.acc = s.acc := rfl
@[simp] theorem State.headerFix_table : s.headerFix.table = s.table := rfl
@[simp] theorem State.headerFix_image : s.headerFix.image = headerImage s.image s.ck0 s.ck1 := rfl
@[simp] theorem State.headerFix_moves : s.headerFix.moves = s.moves := rfl
@[simp] theorem State.headerFix_readings : s.headerFix.readings = s.readings := rfl
@[simp] theorem State.headerFix_draws : s.headerFix.draws = s.draws := rfl

/-- `raise Error` is `complete` with RES = NONE (R200). -/
@[simp] theorem State.raiseError_eq (e : ErrCode) : s.raiseError e = s.complete e .none := rfl

/-- R126: with TV = 1 the lazy build does nothing. -/
theorem State.ensureTable_of_tv (h : s.tv = true) : s.ensureTable = s := by simp [State.ensureTable, h]

/-- R126: with TV = 0 the lazy build is the build. -/
theorem State.ensureTable_of_not_tv (h : s.tv = false) : s.ensureTable = s.buildTable := by
  simp [State.ensureTable, h]

/-- R25: a write while BUSY = 1 only sets OVR. -/
theorem State.unlessBusy_busy (t : State) (h : s.busy = true) : s.unlessBusy t = { s with ovr := true } := by
  simp [State.unlessBusy, h]

/-- A write while BUSY = 0 takes effect. -/
theorem State.unlessBusy_idle (t : State) (h : s.busy = false) : s.unlessBusy t = t := by
  simp [State.unlessBusy, h]

end Sys2Proof.Machine
end

