-- ==== Sys2Proof/Laws/Exec.lean ====
section
/-! SUPPORT. What the completion step of each command can do: one inversion lemma per command. Later proofs cite these
and do not unfold the meanings. -/

namespace Sys2Proof.Machine

/-- The bounds check as an inequality (R79). -/
@[simp] theorem State.outOfBounds_iff (s : State) (n : Nat) : s.outOfBounds n = true ↔ s.imgLen.toNat < n := by
  simp [State.outOfBounds]

@[simp] theorem classifyNeed_eq : classifyNeed = Config.bcOff + Config.bcLen := rfl
@[simp] theorem cksumNeed_eq : cksumNeed = 0x101000 := rfl
@[simp] theorem hdrfixNeed_eq : hdrfixNeed = 0x18 := rfl

/-- The boot-code window lies above the header words and below the end of the checksum window (R82). -/
theorem bootWindow_bounds : 0x18 ≤ Config.bcOff ∧ Config.bcOff + Config.bcLen ≤ 0x101000 := by decide

variable {s t : State}

/-- R186. -/
theorem exec_nop_inv (h : exec .nop s = .next t) : t = s.complete .none .none := by
  simpa [exec, execNop] using h.symm

/-- R125. -/
theorem exec_tblgen_inv (h : exec .tblgen s = .next t) : t = s.buildTable.complete .none .none := by
  simpa [exec, execTblgen] using h.symm

/-- The state FPRINT leaves when its window is in bounds (R127). -/
def State.fprinted (s : State) : State :=
  State.complete
    { s.ensureTable with fp := fingerprint s.image s.fpBase.toNat s.fpLen.toNat } .none .none

/-- R127: out of bounds or done. -/
theorem exec_fprint_inv (h : exec .fprint s = .next t) :
    (s.imgLen.toNat < s.fpBase.toNat + s.fpLen.toNat ∧ t = s.complete .bounds .none) ∨
    (s.fpBase.toNat + s.fpLen.toNat ≤ s.imgLen.toNat ∧ t = s.fprinted) := by
  simp only [exec, execFprint] at h
  split at h
  · next hb =>
    injection h with h
    exact .inl ⟨(s.outOfBounds_iff _).1 hb, h.symm⟩
  · next hb =>
    injection h with h
    refine .inr ⟨?_, ?_⟩
    · rw [State.outOfBounds_iff] at hb; exact Nat.le_of_not_lt hb
    · rw [← h]; simp [State.fprinted]

/-- R142: out of bounds or done. -/
theorem exec_classify_inv (h : exec .classify s = .next t) :
    (s.imgLen.toNat < Config.bcOff + Config.bcLen ∧ t = s.complete .bounds .none) ∨
    (Config.bcOff + Config.bcLen ≤ s.imgLen.toNat ∧ t = s.ensureTable.classifyImage.complete .none .none) := by
  simp only [exec, execClassify] at h
  split at h
  · next hb => injection h with h; exact .inl ⟨(s.outOfBounds_iff _).1 hb, h.symm⟩
  · next hb =>
    injection h with h
    rw [State.outOfBounds_iff] at hb
    exact .inr ⟨Nat.le_of_not_lt hb, h.symm⟩

/-- R157: out of bounds, unidentified, or done. -/
theorem exec_cksum_inv (h : exec .cksum s = .next t) :
    (s.imgLen.toNat < 0x101000 ∧ t = s.complete .bounds .none) ∨
    (0x101000 ≤ s.imgLen.toNat ∧ s.id = .unknown ∧ t = s.complete .unidentified .none) ∨
    (0x101000 ≤ s.imgLen.toNat ∧ ∃ c, s.id = .known c ∧ t = (s.latchChecksum c).complete .none .none) := by
  simp only [exec, execCksum] at h
  split at h
  · next hb => injection h with h; exact .inl ⟨(s.outOfBounds_iff _).1 hb, h.symm⟩
  · next hb =>
    rw [State.outOfBounds_iff] at hb
    have hb := Nat.le_of_not_lt hb
    split at h
    · next hid => injection h with h; exact .inr (.inl ⟨hb, hid, h.symm⟩)
    · next c hid => injection h with h; exact .inr (.inr ⟨hb, c, hid, h.symm⟩)

/-- R183: out of bounds, compared, unidentified, or no checksum. -/
theorem exec_hdrfix_inv (h : exec .hdrfix s = .next t) :
    (s.imgLen.toNat < 0x18 ∧ t = s.complete .bounds .none) ∨
    (0x18 ≤ s.imgLen.toNat ∧ s.cv = true ∧ t = s.headerFix) ∨
    (0x18 ≤ s.imgLen.toNat ∧ s.cv = false ∧ s.id = .unknown ∧ t = s.complete .unidentified .unidentified) ∨
    (0x18 ≤ s.imgLen.toNat ∧ s.cv = false ∧ (∃ c, s.id = .known c) ∧ t = s.complete .noChecksum .none) := by
  simp only [exec, execHdrfix] at h
  split at h
  · next hb => injection h with h; exact .inl ⟨(s.outOfBounds_iff _).1 hb, h.symm⟩
  · next hb =>
    rw [State.outOfBounds_iff] at hb
    have hb := Nat.le_of_not_lt hb
    split at h
    · next hc => injection h with h; exact .inr (.inl ⟨hb, hc, h.symm⟩)
    · next hc =>
      have hc : s.cv = false := by simpa using hc
      split at h
      · next hid => injection h with h; exact .inr (.inr (.inl ⟨hb, hc, hid, h.symm⟩))
      · next c hid => injection h with h; exact .inr (.inr (.inr ⟨hb, hc, ⟨c, hid⟩, h.symm⟩))

/-- R188: out of bounds, unidentified, or compared. -/
theorem exec_fix_inv (h : exec .fix s = .next t) :
    (s.imgLen.toNat < 0x101000 ∧ t = s.complete .bounds .none) ∨
    (0x101000 ≤ s.imgLen.toNat ∧ classify (bootFingerprint s.image) = .unknown ∧
      t = s.ensureTable.classifyImage.complete .unidentified .unidentified) ∨
    (0x101000 ≤ s.imgLen.toNat ∧ ∃ c, classify (bootFingerprint s.image) = .known c ∧
      t = (s.ensureTable.classifyImage.latchChecksum c).headerFix) := by
  simp only [exec, execFix] at h
  split at h
  · next hb => injection h with h; exact .inl ⟨(s.outOfBounds_iff _).1 hb, h.symm⟩
  · next hb =>
    rw [State.outOfBounds_iff] at hb
    have hb := Nat.le_of_not_lt hb
    split at h
    · next hid => injection h with h; exact .inr (.inl ⟨hb, by simpa using hid, h.symm⟩)
    · next c hid => injection h with h; exact .inr (.inr ⟨hb, c, by simpa using hid, h.symm⟩)

/-- A command's completion step always has a next state (R200, R248). -/
theorem exec_isNext (i : Instr) (s : State) : ∃ t, exec i s = .next t := by
  cases i
  case nop => exact ⟨_, rfl⟩
  case tblgen => exact ⟨_, rfl⟩
  case fprint => simp only [exec, execFprint]; split <;> exact ⟨_, rfl⟩
  case classify => simp only [exec, execClassify]; split <;> exact ⟨_, rfl⟩
  case cksum => simp only [exec, execCksum]; split; exact ⟨_, rfl⟩; split <;> exact ⟨_, rfl⟩
  case hdrfix =>
    simp only [exec, execHdrfix]; split; exact ⟨_, rfl⟩; split; exact ⟨_, rfl⟩; split <;> exact ⟨_, rfl⟩
  case fix => simp only [exec, execFix]; split; exact ⟨_, rfl⟩; split <;> exact ⟨_, rfl⟩

end Sys2Proof.Machine
end

