-- ==== Sys2Proof/Laws/Memory.lean ====
section
/-! SUPPORT. The laws of the image memory: read after write, what a write leaves alone, the canonical form, and that
equal images are equal data. -/

namespace Sys2Proof.Machine

@[simp] theorem readByte_nil (a : Nat) : readByte [] a = Config.unlistedByte := rfl

theorem readByte_cons (k : Nat) (b : Byte) (m : Image) (a : Nat) :
    readByte ((k, b) :: m) a = if k = a then b else readByte m a := rfl

/-- A write leaves every other byte alone, whatever the form of the image. -/
theorem readByte_writeByte_ne (m : Image) {a a' : Nat} (b : Byte) (h : a' ≠ a) :
    readByte (writeByte m a b) a' = readByte m a' := by
  induction m with
  | nil => unfold writeByte; split <;> simp [readByte_cons, h.symm]
  | cons c m ih =>
    obtain ⟨k, c⟩ := c
    unfold writeByte
    split
    · simp [readByte_cons, ih]
    · split
      · split
        · next hk => subst hk; simp [readByte_cons, h.symm]
        · rfl
      · split
        · next hk => subst hk; simp [readByte_cons, h.symm]
        · simp [readByte_cons, h.symm]

/-- The entry conditions and the form of the tail, as a recursion equation of the canonical form. -/
theorem Memory.wf_cons (k : Nat) (b : Byte) (m : Image) :
    Memory.wf ((k, b) :: m) = true ↔
      k < 2 ^ 32 ∧ b ≠ Config.unlistedByte ∧ Memory.wf m = true ∧ ∀ p ∈ m, k < p.1 := by
  induction m generalizing k b with
  | nil => simp [Memory.wf]
  | cons c m ih =>
    obtain ⟨k', b'⟩ := c
    simp only [Memory.wf, Bool.and_eq_true, decide_eq_true_eq, bne_iff_ne, ne_eq, List.mem_cons, forall_eq_or_imp]
    constructor
    · rintro ⟨⟨hk, hb⟩, hm⟩
      have h := (ih k' b').1 hm
      exact ⟨by omega, hb, hm, hk, fun p hp => by have := h.2.2.2 p hp; omega⟩
    · rintro ⟨-, hb, hm, hk, -⟩
      exact ⟨⟨hk, hb⟩, hm⟩

/-- An address below every listed one reads as unlisted. -/
theorem readByte_of_lt_all (m : Image) (a : Nat) (h : ∀ p ∈ m, a < p.1) : readByte m a = Config.unlistedByte := by
  induction m with
  | nil => rfl
  | cons c m ih =>
    obtain ⟨k, b⟩ := c
    have hk : a < k := h (k, b) (by simp)
    rw [readByte_cons, if_neg (by omega), ih fun p hp => h p (by simp [hp])]

/-- A read after a write to the same address gives the value written. -/
theorem readByte_writeByte_same (m : Image) (a : Nat) (b : Byte) (hm : Memory.wf m = true) :
    readByte (writeByte m a b) a = b := by
  induction m with
  | nil => unfold writeByte; split <;> simp_all [readByte_cons]
  | cons c m ih =>
    obtain ⟨k, c⟩ := c
    obtain ⟨-, -, hm', hlt⟩ := (Memory.wf_cons k c m).1 hm
    unfold writeByte
    split
    · next hk => rw [readByte_cons, if_neg (by omega), ih hm']
    · split
      · next hb =>
        subst hb
        split
        · next hk => subst hk; exact readByte_of_lt_all m _ hlt
        · next h1 h2 =>
          refine readByte_of_lt_all _ _ fun p hp => ?_
          rcases List.mem_cons.1 hp with rfl | hp
          · show a < k; omega
          · have := hlt p hp; omega
      · split <;> simp [readByte_cons]

/-- Every address a write lists was listed before or is the one written. -/
theorem mem_writeByte (m : Image) (a : Nat) (b : Byte) (p : Host.Cell) (h : p ∈ writeByte m a b) :
    p ∈ m ∨ p = (a, b) := by
  induction m with
  | nil => unfold writeByte at h; split at h <;> simp_all
  | cons c m ih =>
    obtain ⟨k, c⟩ := c
    unfold writeByte at h
    (repeat' split at h) <;> simp only [List.mem_cons] at h ⊢ <;> tauto

/-- A write to an address of the image space keeps the canonical form. -/
theorem wf_writeByte (m : Image) (a : Nat) (b : Byte) (ha : a < 2 ^ 32) (hm : Memory.wf m = true) :
    Memory.wf (writeByte m a b) = true := by
  induction m with
  | nil =>
    unfold writeByte
    split
    · rfl
    · next hb => exact (Memory.wf_cons a b []).2 ⟨ha, hb, rfl, by simp⟩
  | cons c m ih =>
    obtain ⟨k, c⟩ := c
    obtain ⟨hk, hc, hm', hlt⟩ := (Memory.wf_cons k c m).1 hm
    unfold writeByte
    split
    · next hka =>
      refine (Memory.wf_cons _ _ _).2 ⟨hk, hc, ih hm', fun p hp => ?_⟩
      rcases mem_writeByte m a b p hp with h | rfl
      · exact hlt p h
      · exact hka
    · split
      · split
        · exact hm'
        · exact hm
      · next h1 hb =>
        split
        · next hk' => subst hk'; exact (Memory.wf_cons _ _ _).2 ⟨hk, hb, hm', hlt⟩
        · next hk' =>
          refine (Memory.wf_cons _ _ _).2 ⟨ha, hb, hm, fun p hp => ?_⟩
          rcases List.mem_cons.1 hp with rfl | hp
          · show a < k; omega
          · have := hlt p hp; omega

/-- Images in canonical form that read the same everywhere are equal. -/
theorem image_ext (m m' : Image) (hm : Memory.wf m = true) (hm' : Memory.wf m' = true)
    (h : ∀ a, readByte m a = readByte m' a) : m = m' := by
  induction m generalizing m' with
  | nil =>
    cases m' with
    | nil => rfl
    | cons c m' =>
      obtain ⟨k, b⟩ := c
      have := h k
      obtain ⟨-, hb, -, -⟩ := (Memory.wf_cons k b m').1 hm'
      simp [readByte_cons] at this
      exact absurd this.symm hb
  | cons c m ih =>
    obtain ⟨k, b⟩ := c
    obtain ⟨-, hb, hmt, hlt⟩ := (Memory.wf_cons k b m).1 hm
    cases m' with
    | nil =>
      have := h k
      simp [readByte_cons] at this
      exact absurd this hb
    | cons c' m' =>
      obtain ⟨k', b'⟩ := c'
      obtain ⟨-, hb', hmt', hlt'⟩ := (Memory.wf_cons k' b' m').1 hm'
      have hkk : k = k' := by
        rcases Nat.lt_trichotomy k k' with hlt1 | heq | hlt1
        · have h1 := h k
          rw [readByte_cons, if_pos rfl, readByte_cons, if_neg (by omega),
            readByte_of_lt_all m' k fun p hp => by have := hlt' p hp; omega] at h1
          exact absurd h1 hb
        · exact heq
        · have h1 := h k'
          rw [readByte_cons, if_neg (by omega), readByte_cons, if_pos rfl,
            readByte_of_lt_all m k' fun p hp => by have := hlt p hp; omega] at h1
          exact absurd h1.symm hb'
      subst hkk
      have hbb : b = b' := by simpa [readByte_cons] using h k
      subst hbb
      congr 1
      refine ih m' hmt hmt' fun a => ?_
      by_cases ha : k = a
      · subst ha
        rw [readByte_of_lt_all m _ hlt, readByte_of_lt_all m' _ hlt']
      · simpa [readByte_cons, ha] using h a

/-! ### Words -/

/-- Appending a byte below `x` scales `x` by 2^8. -/
theorem append_byte_toNat {n : Nat} (x : BitVec n) (y : Byte) : (x ++ y).toNat = x.toNat * 2 ^ 8 + y.toNat := by
  rw [BitVec.toNat_append, Nat.shiftLeft_eq, Nat.mul_comm, Nat.two_pow_add_eq_or_of_lt y.isLt]

/-- R72: the numeric form of the big-endian read. -/
theorem readWord_toNat (m : Image) (a : Nat) :
    (readWord m a).toNat = (readByte m a).toNat * 2 ^ 24 + (readByte m (a + 1)).toNat * 2 ^ 16 +
      (readByte m (a + 2)).toNat * 2 ^ 8 + (readByte m (a + 3)).toNat := by
  have h : (readWord m a).toNat = (((readByte m a ++ readByte m (a + 1)) ++ readByte m (a + 2)) ++ readByte m (a + 3)).toNat := rfl
  rw [h, append_byte_toNat, append_byte_toNat, append_byte_toNat]
  ring

/-- Words read equal where their four bytes do. -/
theorem readWord_congr (m m' : Image) (a : Nat) (h : ∀ b, a ≤ b → b < a + 4 → readByte m b = readByte m' b) :
    readWord m a = readWord m' a := by
  unfold readWord
  rw [h a (by omega) (by omega), h (a + 1) (by omega) (by omega), h (a + 2) (by omega) (by omega),
    h (a + 3) (by omega) (by omega)]

/-- A word write leaves every byte outside its four alone. -/
theorem readByte_writeWord_outside (m : Image) (a : Nat) (v : Word) {b : Nat} (h : b < a ∨ a + 4 ≤ b) :
    readByte (writeWord m a v) b = readByte m b := by
  unfold writeWord
  rw [readByte_writeByte_ne _ _ (by omega), readByte_writeByte_ne _ _ (by omega), readByte_writeByte_ne _ _ (by omega),
    readByte_writeByte_ne _ _ (by omega)]

/-- A word write inside the image space keeps the canonical form. -/
theorem wf_writeWord (m : Image) (a : Nat) (v : Word) (ha : a + 3 < 2 ^ 32) (hm : Memory.wf m = true) :
    Memory.wf (writeWord m a v) = true :=
  wf_writeByte _ _ _ ha (wf_writeByte _ _ _ (by omega) (wf_writeByte _ _ _ (by omega) (wf_writeByte _ _ _ (by omega) hm)))

/-- The four bytes of a written word, the most significant at the lowest address (R73, R75). -/
theorem readByte_writeWord (m : Image) (a : Nat) (v : Word) (ha : a + 3 < 2 ^ 32) (hm : Memory.wf m = true) :
    readByte (writeWord m a v) a = v.extractLsb' 24 8 ∧ readByte (writeWord m a v) (a + 1) = v.extractLsb' 16 8 ∧
    readByte (writeWord m a v) (a + 2) = v.extractLsb' 8 8 ∧ readByte (writeWord m a v) (a + 3) = v.extractLsb' 0 8 := by
  have w1 := wf_writeByte m a (v.extractLsb' 24 8) (by omega) hm
  have w2 := wf_writeByte _ (a + 1) (v.extractLsb' 16 8) (by omega) w1
  have w3 := wf_writeByte _ (a + 2) (v.extractLsb' 8 8) (by omega) w2
  unfold writeWord
  refine ⟨?_, ?_, ?_, ?_⟩
  · rw [readByte_writeByte_ne _ _ (by omega), readByte_writeByte_ne _ _ (by omega),
      readByte_writeByte_ne _ _ (by omega), readByte_writeByte_same _ _ _ hm]
  · rw [readByte_writeByte_ne _ _ (by omega), readByte_writeByte_ne _ _ (by omega), readByte_writeByte_same _ _ _ w1]
  · rw [readByte_writeByte_ne _ _ (by omega), readByte_writeByte_same _ _ _ w2]
  · rw [readByte_writeByte_same _ _ _ w3]

/-- A word reads back as it was written (R72, R73). -/
theorem readWord_writeWord_same (m : Image) (a : Nat) (v : Word) (ha : a + 3 < 2 ^ 32) (hm : Memory.wf m = true) :
    readWord (writeWord m a v) a = v := by
  obtain ⟨e0, e1, e2, e3⟩ := readByte_writeWord m a v ha hm
  apply BitVec.eq_of_toNat_eq
  have hv := v.isLt
  rw [readWord_toNat, e0, e1, e2, e3]
  simp only [BitVec.extractLsb'_toNat, Nat.shiftRight_eq_div_pow]
  omega

end Sys2Proof.Machine
end

