-- ==== Sys2Proof/Laws/Header.lean ====
section
/-! SUPPORT. What the header patch of R182 leaves: the two stored words, every other byte, the canonical form. -/

namespace Sys2Proof.Machine

variable (m : Image) (k0 k1 : Word)

/-- The patch changes a byte only inside a word that differed (R182). -/
theorem readByte_headerImage (a : Nat) (h0 : storedWord0 m = k0 ∨ a < 0x10 ∨ 0x14 ≤ a)
    (h1 : storedWord1 m = k1 ∨ a < 0x14 ∨ 0x18 ≤ a) : readByte (headerImage m k0 k1) a = readByte m a := by
  have e0 : readByte (if storedWord0 m = k0 then m else writeWord m Config.hdr0Off k0) a = readByte m a := by
    split
    · rfl
    · exact readByte_writeWord_outside _ _ _ (by simp only [Config.hdr0Off]; tauto)
  unfold headerImage
  dsimp only
  split
  · exact e0
  · rw [readByte_writeWord_outside _ _ _ (by simp only [Config.hdr1Off]; tauto), e0]

/-- R82: the patch changes no byte outside 0x10-0x17. -/
theorem readByte_headerImage_outside (a : Nat) (h : a < 0x10 ∨ 0x18 ≤ a) :
    readByte (headerImage m k0 k1) a = readByte m a :=
  readByte_headerImage m k0 k1 a (Or.inr (by omega)) (Or.inr (by omega))

/-- The patch keeps the canonical form. -/
theorem wf_headerImage (h : Memory.wf m = true) : Memory.wf (headerImage m k0 k1) = true := by
  unfold headerImage
  dsimp only
  have h0 : Memory.wf (if storedWord0 m = k0 then m else writeWord m Config.hdr0Off k0) = true := by
    split
    · exact h
    · exact wf_writeWord _ _ _ (by decide) h
  split
  · exact h0
  · exact wf_writeWord _ _ _ (by decide) h0

/-- R185: stored word 0 holds its value after the patch. -/
theorem storedWord0_headerImage (h : Memory.wf m = true) : storedWord0 (headerImage m k0 k1) = k0 := by
  have e0 : readWord (if storedWord0 m = k0 then m else writeWord m Config.hdr0Off k0) Config.hdr0Off = k0 := by
    split
    · assumption
    · exact readWord_writeWord_same _ _ _ (by decide) h
  unfold headerImage storedWord0
  dsimp only
  split
  · exact e0
  · rw [readWord_congr _ _ _ fun b h1 h2 => readByte_writeWord_outside _ _ _ ?_]
    · exact e0
    · simp only [Config.hdr0Off, Config.hdr1Off] at *; omega

/-- R185: stored word 1 holds its value after the patch. -/
theorem storedWord1_headerImage (h : Memory.wf m = true) : storedWord1 (headerImage m k0 k1) = k1 := by
  have e1 : readWord (if storedWord0 m = k0 then m else writeWord m Config.hdr0Off k0) Config.hdr1Off = storedWord1 m := by
    split
    · rfl
    · exact readWord_congr _ _ _ fun b h1 h2 =>
        readByte_writeWord_outside _ _ _ (by simp only [Config.hdr0Off, Config.hdr1Off] at *; omega)
  have w0 : Memory.wf (if storedWord0 m = k0 then m else writeWord m Config.hdr0Off k0) = true := by
    split
    · exact h
    · exact wf_writeWord _ _ _ (by decide) h
  unfold headerImage
  dsimp only
  split
  · next heq => rw [storedWord1, e1, heq]
  · exact readWord_writeWord_same _ _ _ (by decide) w0

/-- R183: a pair that already matches leaves the image as it is. -/
theorem headerImage_of_match (h0 : storedWord0 m = k0) (h1 : storedWord1 m = k1) : headerImage m k0 k1 = m := by
  unfold headerImage; simp [h0, h1]

end Sys2Proof.Machine
end

