-- ==== Sys2Proof/Laws/Loops.lean ====
section
/-! SUPPORT. The loops of the block as folds, and that each depends only on the bytes of its window. -/

namespace Sys2Proof.Machine

/-- R123: the fingerprint loop is a fold of `crcStep` over the window's bytes in ascending order. -/
theorem fingerprintLoop_eq_foldl (m : Image) (n a : Nat) (acc : Word) :
    fingerprintLoop m n a acc = ((List.range n).map fun k => readByte m (a + k)).foldl crcStep acc := by
  induction n generalizing a acc with
  | zero => rfl
  | succ n ih =>
    rw [fingerprintLoop, ih, List.range_succ_eq_map, List.map_cons, List.foldl_cons, List.map_map, Nat.add_zero]
    congr 1
    refine List.map_congr_left fun k _ => ?_
    simp only [Function.comp, Nat.succ_eq_add_one]
    congr 1
    omega

/-- The fingerprint loop over `n + k` bytes is the loop over the first `n` and then over the other `k`. -/
theorem fingerprintLoop_add (m : Image) (n k a : Nat) (acc : Word) :
    fingerprintLoop m (n + k) a acc = fingerprintLoop m k (a + n) (fingerprintLoop m n a acc) := by
  induction n generalizing a acc with
  | zero => simp [fingerprintLoop]
  | succ n ih => rw [Nat.add_right_comm, fingerprintLoop, fingerprintLoop, ih, Nat.add_assoc, Nat.add_comm 1]

/-- The fingerprint of a window depends only on the window's bytes. -/
theorem fingerprint_congr (m m' : Image) (base n : Nat)
    (h : ∀ a, base ≤ a → a < base + n → readByte m a = readByte m' a) : fingerprint m base n = fingerprint m' base n := by
  unfold fingerprint
  rw [fingerprintLoop_eq_foldl, fingerprintLoop_eq_foldl]
  congr 2
  refine List.map_congr_left fun k hk => h _ (by omega) ?_
  have := List.mem_range.1 hk
  omega

/-- R141: the boot fingerprint depends only on the bytes of the boot-code window. -/
theorem bootFingerprint_congr (m m' : Image)
    (h : ∀ a, Config.bcOff ≤ a → a < Config.bcOff + Config.bcLen → readByte m a = readByte m' a) :
    bootFingerprint m = bootFingerprint m' := by
  rw [bootFingerprint, bootFingerprint]
  exact fingerprint_congr _ _ _ _ h

/-- R156: the mixing loop is a fold over the iteration index. -/
theorem mixLoop_eq_foldl (m : Image) (c : Cic) (n off : Nat) (acc : Acc) :
    mixLoop m c n off acc =
      (List.range n).foldl (fun x k => mixStep x (readWord m (off + 4 * k)) (auxWord m c (off + 4 * k)) c) acc := by
  induction n generalizing off acc with
  | zero => rfl
  | succ n ih =>
    rw [mixLoop, ih, List.range_succ_eq_map, List.foldl_cons, List.foldl_map, Nat.mul_zero, Nat.add_zero]
    have e : ∀ k, off + 4 * (k + 1) = off + 4 + 4 * k := fun k => by omega
    simp only [Nat.succ_eq_add_one, e, Nat.add_zero]

/-- The mixing loop is one more step after its first `n` iterations. -/
theorem mixLoop_succ (m : Image) (c : Cic) (n off : Nat) (acc : Acc) :
    mixLoop m c (n + 1) off acc =
      mixStep (mixLoop m c n off acc) (readWord m (off + 4 * n)) (auxWord m c (off + 4 * n)) c := by
  rw [mixLoop_eq_foldl, mixLoop_eq_foldl, List.range_succ, List.foldl_append]
  rfl

/-- The mixing loop depends only on the data words and the auxiliary words it reads. -/
theorem mixLoop_congr (m m' : Image) (c : Cic) (n off : Nat) (acc : Acc)
    (hd : ∀ k, k < n → readWord m (off + 4 * k) = readWord m' (off + 4 * k))
    (ha : ∀ k, auxWord m c (off + 4 * k) = auxWord m' c (off + 4 * k)) :
    mixLoop m c n off acc = mixLoop m' c n off acc := by
  induction n with
  | zero => rfl
  | succ n ih => rw [mixLoop_succ, mixLoop_succ, ih fun k hk => hd k (by omega), hd n (by omega), ha n]

/-- R154: the auxiliary word depends only on bytes 0x750..0x84F. -/
theorem auxWord_congr (m m' : Image) (c : Cic) (off : Nat)
    (ha : ∀ a, 0x750 ≤ a → a < 0x850 → readByte m a = readByte m' a) (h4 : 4 ∣ off) :
    auxWord m c off = auxWord m' c off := by
  by_cases hc : c = .cic6105
  · have : readWord m (auxAddr off) = readWord m' (auxAddr off) := by
      apply readWord_congr
      intro b h1 h2
      have h3 : auxAddr off = 0x750 + off % 0x100 := rfl
      rw [h3] at h1 h2
      have h5 : off % 256 % 4 = 0 := by omega
      have h6 : b < 0x850 := by omega
      exact ha b (by omega) h6
    simp only [auxWord, hc, if_true, this]
  · simp only [auxWord, hc, if_false]

/-- R81, R156: the checksum depends only on the checksum window and the auxiliary window. -/
theorem checksumAcc_congr (m m' : Image) (c : Cic)
    (hd : ∀ a, 0x1000 ≤ a → a < 0x101000 → readByte m a = readByte m' a)
    (ha : ∀ a, 0x750 ≤ a → a < 0x850 → readByte m a = readByte m' a) : checksumAcc m c = checksumAcc m' c := by
  unfold checksumAcc
  refine mixLoop_congr m m' c _ _ _ (fun k hk => ?_) (fun k => ?_)
  · apply readWord_congr
    intro b h1 h2
    simp only [Config.ckIters, Config.ckLen, Config.ckStart] at hk h1 h2
    exact hd b (by omega) (by omega)
  · exact auxWord_congr m m' c _ ha ⟨0x400 + k, by simp only [Config.ckStart]; omega⟩

end Sys2Proof.Machine
end

