-- ==== Sys2Proof/Laws/PerInstr.lean ====
section
/-! SUPPORT. The per-instruction family of LAWS.json: each command is encoded as a legal word (R101, R103, R104). -/

namespace Sys2Proof.Laws.LegalWord

/-- The command is well formed and its word passes both checks of R104. -/
def Statement (i : Instr) : Prop := i.wf = true ∧ wordLegal (encode i) = true

theorem nop : Statement .nop := by unfold Statement; decide
theorem tblgen : Statement .tblgen := by unfold Statement; decide
theorem fprint : Statement .fprint := by unfold Statement; decide
theorem classify : Statement .classify := by unfold Statement; decide
theorem cksum : Statement .cksum := by unfold Statement; decide
theorem hdrfix : Statement .hdrfix := by unfold Statement; decide
theorem fix : Statement .fix := by unfold Statement; decide

end Sys2Proof.Laws.LegalWord
end

