-- ==== Sys2Proof/Laws/Step.lean ====
section
/-! SUPPORT. What one step can do: one case per kind of move; and how runs are put together. -/

namespace Sys2Proof.Machine

variable {s t : State}

/-- The engine's turn: idle, an illegal word, or a command (R45, R104, R216). -/
theorem engineMove_inv (h : engineMove s = .next t) :
    (s.pending = none ∧ t = s) ∨
    (∃ w e, s.pending = some w ∧ decode w = .error e ∧ t = s.complete .illegalCmd .none) ∨
    (∃ w i, s.pending = some w ∧ decode w = .ok i ∧ exec i s = .next t) := by
  unfold engineMove at h
  split at h
  · next hp => injection h with h; exact .inl ⟨hp, h.symm⟩
  · next w hp =>
    split at h
    · next i hd => exact .inr (.inr ⟨w, i, hp, hd, h⟩)
    · next e hd => injection h with h; exact .inr (.inl ⟨w, e, hp, hd, h.symm⟩)

/-- The engine's turn always has a next state. -/
theorem engineMove_isNext (s : State) : ∃ t, engineMove s = .next t := by
  unfold engineMove
  split
  · exact ⟨_, rfl⟩
  · split
    · exact exec_isNext _ _
    · exact ⟨_, rfl⟩

/-- The state after the pending command is the engine's next state. -/
theorem engineMove_afterPending (s : State) : engineMove s = .next s.afterPending := by
  obtain ⟨t, h⟩ := engineMove_isNext s
  rw [State.afterPending, h]

/-- One step: the engine's with no move left, or the first move on the state without it. -/
theorem step_inv (h : step s = .next t) :
    (s.moves = [] ∧ engineMove s = .next t) ∨
    (∃ rest, s.moves = .engine :: rest ∧ engineMove { s with moves := rest } = .next t) ∨
    (∃ idx v rest, s.moves = .regWrite idx v :: rest ∧
      t = State.writeRegister { s with moves := rest } (regAt idx) v) ∨
    (∃ idx rest, s.moves = .regRead idx :: rest ∧ t = State.readRegister { s with moves := rest } idx) ∨
    (∃ a b rest, s.moves = .imgWrite a b :: rest ∧ ¬(s.busy = true ∧ a.toNat < s.imgLen.toNat) ∧
      t = { s with moves := rest, image := writeByte s.image a.toNat b }) ∨
    (∃ a rest, s.moves = .imgRead a :: rest ∧ t = State.hostReadByte { s with moves := rest } a) ∨
    (∃ rest, s.moves = .reset :: rest ∧ t = State.resetEvent { s with moves := rest }) := by
  unfold step at h
  split at h
  · next hm => exact .inl ⟨hm, h⟩
  · next m rest hm =>
    cases m with
    | engine => exact .inr (.inl ⟨rest, hm, h⟩)
    | regWrite idx v => injection h with h; exact .inr (.inr (.inl ⟨idx, v, rest, hm, h.symm⟩))
    | regRead idx => injection h with h; exact .inr (.inr (.inr (.inl ⟨idx, rest, hm, h.symm⟩)))
    | imgWrite a b =>
      simp only [makeMove, hostWriteByte] at h
      split at h
      · exact nomatch h
      · next hc =>
        injection h with h
        exact .inr (.inr (.inr (.inr (.inl ⟨a, b, rest, hm, by simpa using hc, h.symm⟩))))
    | imgRead a => injection h with h; exact .inr (.inr (.inr (.inr (.inr (.inl ⟨a, rest, hm, h.symm⟩)))))
    | reset => injection h with h; exact .inr (.inr (.inr (.inr (.inr (.inr ⟨rest, hm, h.symm⟩)))))

/-- A run of `n + 1` steps is a run of `n` steps and one more. -/
theorem run_succ_next {n : Nat} {u : State} (h : run n s = .next u) : run (n + 1) s = step u := by
  induction n generalizing s with
  | zero =>
    obtain rfl : s = u := by injection h
    rw [run]
    cases step s <;> rfl
  | succ n ih =>
    rw [run] at h ⊢
    cases hs : step s with
    | next t => rw [hs] at h; exact ih h
    | fault f => rw [hs] at h; exact nomatch h
    | refused r => rw [hs] at h; exact nomatch h

/-- The header mix of R231: a byte outside 0x10-0x17 stays. -/
theorem readByte_drawHeader_outside (old new : Image) (n k a : Nat) (h : a < 0x10 ∨ 0x10 + k ≤ a) :
    readByte (drawHeader old new n k) a = readByte old a := by
  induction k with
  | zero => rfl
  | succ k ih =>
    rw [drawHeader, readByte_writeByte_ne _ _ (by simp only [Config.hdr0Off]; omega), ih (by omega)]

/-- The header mix keeps the canonical form. -/
theorem wf_drawHeader (old new : Image) (n k : Nat) (hk : k ≤ 8) (h : Memory.wf old = true) :
    Memory.wf (drawHeader old new n k) = true := by
  induction k with
  | zero => exact h
  | succ k ih => exact wf_writeByte _ _ _ (by simp only [Config.hdr0Off]; omega) (ih (by omega))

/-- The header mix of R231: each drawn byte is the old or the new one. -/
theorem readByte_drawHeader_inside (old new : Image) (n k a : Nat) (hk : k ≤ 8) (h : Memory.wf old = true)
    (h1 : 0x10 ≤ a) (h2 : a < 0x10 + k) :
    readByte (drawHeader old new n k) a = readByte old a ∨ readByte (drawHeader old new n k) a = readByte new a := by
  induction k with
  | zero => omega
  | succ k ih =>
    rw [drawHeader]
    by_cases hak : a = 0x10 + k
    · subst hak
      rw [show Config.hdr0Off + k = 0x10 + k from rfl, readByte_writeByte_same _ _ _ (wf_drawHeader old new n k (by omega) h)]
      unfold drawBetween
      split
      · exact .inr rfl
      · exact .inl rfl
    · rw [readByte_writeByte_ne _ _ (by simp only [Config.hdr0Off]; omega)]
      exact ih (by omega) (by omega)

end Sys2Proof.Machine
end

