-- ==== Sys2Proof/Laws/RegPort.lean ====
section
/-! SUPPORT. The register map of 10_state.md R21 by word address: the eighteen named registers, the TABLE window and
the reserved addresses; and that a write above FP_LEN changes nothing. -/

namespace Sys2Proof.Machine

@[simp] theorem regAt_0 : regAt 0#10 = .cmd := by decide
@[simp] theorem regAt_1 : regAt 1#10 = .status := by decide
@[simp] theorem regAt_2 : regAt 2#10 = .ctrl := by decide
@[simp] theorem regAt_3 : regAt 3#10 = .id := by decide
@[simp] theorem regAt_4 : regAt 4#10 = .imgLen := by decide
@[simp] theorem regAt_5 : regAt 5#10 = .fpBase := by decide
@[simp] theorem regAt_6 : regAt 6#10 = .fpLen := by decide
@[simp] theorem regAt_7 : regAt 7#10 = .fp := by decide
@[simp] theorem regAt_8 : regAt 8#10 = .ck0 := by decide
@[simp] theorem regAt_9 : regAt 9#10 = .ck1 := by decide
@[simp] theorem regAt_10 : regAt 10#10 = .st0 := by decide
@[simp] theorem regAt_11 : regAt 11#10 = .st1 := by decide
@[simp] theorem regAt_12 : regAt 12#10 = .acc1 := by decide
@[simp] theorem regAt_13 : regAt 13#10 = .acc2 := by decide
@[simp] theorem regAt_14 : regAt 14#10 = .acc3 := by decide
@[simp] theorem regAt_15 : regAt 15#10 = .acc4 := by decide
@[simp] theorem regAt_16 : regAt 16#10 = .acc5 := by decide
@[simp] theorem regAt_17 : regAt 17#10 = .acc6 := by decide

/-- Above ACC6 the map holds only the TABLE window and reserved addresses. -/
theorem regAt_above (idx : BitVec 10) (h : 18 ≤ idx.toNat) :
    regAt idx = if 0x100 ≤ idx.toNat ∧ idx.toNat < 0x200 then .table (Fin.ofNat 256 (idx.toNat - 0x100)) else .reserved := by
  unfold regAt
  dsimp only
  iterate 18 rw [if_neg (by omega)]
  by_cases hw : 0x100 ≤ idx.toNat ∧ idx.toNat < 0x200
  · have e : (4 * idx.toNat - 0x400) / 4 = idx.toNat - 0x100 := by omega
    rw [if_pos (by omega), if_pos hw, e]
  · rw [if_neg (by omega), if_neg hw]

/-- R22: the reserved addresses. -/
theorem regAt_reserved (idx : BitVec 10) (h : 18 ≤ idx.toNat ∧ idx.toNat < 0x100 ∨ 0x200 ≤ idx.toNat) :
    regAt idx = .reserved := by
  rw [regAt_above idx (by omega), if_neg (by omega)]

/-- R43: the TABLE window. -/
theorem regAt_table (idx : BitVec 10) (i : Fin 256) (h : idx.toNat = 0x100 + i.val) : regAt idx = .table i := by
  have hi := i.isLt
  have e : idx.toNat - 0x100 = i.val := by omega
  rw [regAt_above idx (by omega), if_pos (by omega), e, Fin.ofNat_val_eq_self]

/-- The eleven read-only registers between FP and ACC6, as a case list. -/
theorem idx_cases_result (idx : BitVec 10) (h1 : 7 ≤ idx.toNat) (h2 : idx.toNat ≤ 17) :
    idx = 7#10 ∨ idx = 8#10 ∨ idx = 9#10 ∨ idx = 10#10 ∨ idx = 11#10 ∨ idx = 12#10 ∨ idx = 13#10 ∨ idx = 14#10 ∨
      idx = 15#10 ∨ idx = 16#10 ∨ idx = 17#10 := by
  have e : ∀ n : Nat, idx.toNat = n → idx = BitVec.ofNat 10 n := by rintro n rfl; simp
  have : idx.toNat = 7 ∨ idx.toNat = 8 ∨ idx.toNat = 9 ∨ idx.toNat = 10 ∨ idx.toNat = 11 ∨ idx.toNat = 12 ∨
      idx.toNat = 13 ∨ idx.toNat = 14 ∨ idx.toNat = 15 ∨ idx.toNat = 16 ∨ idx.toNat = 17 := by omega
  rcases this with h | h | h | h | h | h | h | h | h | h | h <;> simp [e _ h]

/-- R22, R24: a write at or above FP changes nothing. -/
theorem writeRegister_readOnly (s : State) (idx : BitVec 10) (v : Word) (h : 7 ≤ idx.toNat) :
    s.writeRegister (regAt idx) v = s := by
  by_cases h2 : idx.toNat ≤ 17
  · rcases idx_cases_result idx h h2 with rfl | rfl | rfl | rfl | rfl | rfl | rfl | rfl | rfl | rfl | rfl <;>
      simp [State.writeRegister]
  · rw [regAt_above idx (by omega)]
    split <;> rfl

/-- What a register write leaves alone, whichever register it names. -/
theorem writeRegister_frame (s : State) (r : Reg) (v : Word) :
    (s.writeRegister r v).image = s.image ∧ (s.writeRegister r v).table = s.table ∧ (s.writeRegister r v).tv = s.tv ∧
    (s.writeRegister r v).fp = s.fp ∧ (s.writeRegister r v).ck0 = s.ck0 ∧ (s.writeRegister r v).ck1 = s.ck1 ∧
    (s.writeRegister r v).st0 = s.st0 ∧ (s.writeRegister r v).st1 = s.st1 ∧ (s.writeRegister r v).acc = s.acc ∧
    (s.writeRegister r v).moves = s.moves ∧ (s.writeRegister r v).readings = s.readings ∧
    (s.writeRegister r v).draws = s.draws := by
  cases r <;> simp only [State.writeRegister, State.unlessBusy] <;> (try split) <;> simp

/-- A host register read changes only the record of readings and the draw count. -/
theorem readRegister_eq (s : State) (idx : BitVec 10) :
    s.readRegister idx = { s with
      readings := .reg idx (if s.busy then s.busyValue (regAt idx) else s.registerValue (regAt idx)) :: s.readings
      draws := s.draws + if s.busy then 1 else 0 } := by
  unfold State.readRegister
  split <;> rename_i h <;> simp [State.logReading]

end Sys2Proof.Machine
end

