-- ==== Sys2Proof/Tests/Slice0.lean ====
section
/-! SUPPORT. Our own tests: decoding from words written out bit by bit, the well-formedness smoke test, at most two
small vectors per command (expected values from spec/95_test_vectors.md, never from the model), and for every
obligation with hypotheses a witness that meets them. -/

namespace Sys2Proof.Tests

open Sys2Proof.Machine

/-! ### Small states -/

/-- Reset, with IMG_LEN written. -/
def ready (n : Word) : State := { State.reset with imgLen := n }

/-- The moves `l` are to come. -/
def playing (s : State) (l : List Move) : State := { s with moves := l }

/-- The word `w` accepted, and the moves `l` to come. -/
def pendingWord (s : State) (w : Word) (l : List Move) : State := { s.accept w with moves := l }

/-- The next state of an outcome, where it has one. -/
def after (o : Host.Outcome State Fault Refusal) (s : State) : State :=
  match o with
  | .next t => t
  | .fault _ => s
  | .refused _ => s

/-- The outcome is the fault IMAGE_RACE. -/
def isRace (o : Host.Outcome State Fault Refusal) : Bool :=
  match o with
  | .next _ => false
  | .fault .imageRace => true
  | .refused _ => false

/-- The state after the completion step of the command word `w`, fetched on `s`. -/
def ran (s : State) (w : Nat) : State := after (step (s.withFetchWord 32 w)) s

/-- CV = 1 with the CIC-6103 pair of program P3, on the zero image. -/
def staged : State :=
  { ready 0x101000 with id := .known .cic6103, cv := true, ck0 := 0xA3886759#32, ck1 := 0x40EC6759#32 }

/-! ### Decoding, word by word, bit by bit (30_encoding.md R101, R103) -/

theorem test_decode_nop : decode 0b0000000000000000000000000000_0000#32 = .ok .nop := by decide
theorem test_decode_tblgen : decode 0b0000000000000000000000000000_0001#32 = .ok .tblgen := by decide
theorem test_decode_fprint : decode 0b0000000000000000000000000000_0010#32 = .ok .fprint := by decide
theorem test_decode_classify : decode 0b0000000000000000000000000000_0011#32 = .ok .classify := by decide
theorem test_decode_cksum : decode 0b0000000000000000000000000000_0100#32 = .ok .cksum := by decide
theorem test_decode_hdrfix : decode 0b0000000000000000000000000000_0101#32 = .ok .hdrfix := by decide
theorem test_decode_fix : decode 0b0000000000000000000000000000_0110#32 = .ok .fix := by decide

/-! ### Well-formedness: a word that each check refuses -/

theorem test_zero_field_refuses : wordZeroField 0x00000010#32 = false ∧ wordKnownOp 0x00000010#32 = true := by decide
theorem test_known_op_refuses : wordKnownOp 0x00000007#32 = false ∧ wordZeroField 0x00000007#32 = true := by decide

/-! ### Commands (95_test_vectors.md sections 2, 4 and 5) -/

/-- E15. -/
theorem test_nop : (ran State.reset 0).statusWord = 0x00000002#32 := by decide +kernel

/-- E1 and E2: illegal words. -/
theorem test_illegal :
    (ran State.reset 0x7).statusWord = 0x00001002#32 ∧ (ran State.reset 0x10).statusWord = 0x00001002#32 := by
  decide +kernel

/-- P1 steps 3 to 6. -/
theorem test_tblgen : (ran State.reset 1).statusWord = 0x00000006#32 ∧ (ran State.reset 1).tableView 1 = 0x77073096#32 ∧
    (ran State.reset 1).tableView 128 = 0xEDB88320#32 ∧ (ran State.reset 1).tableView 255 = 0x2D02EF8D#32 := by
  decide +kernel

/-- P2 step 4: the nine bytes "123456789" at 0x100. -/
theorem test_fprint :
    (ran { ready 0x200 with
      fpBase := 0x100, fpLen := 9
      image := [(0x100, 0x31), (0x101, 0x32), (0x102, 0x33), (0x103, 0x34), (0x104, 0x35), (0x105, 0x36), (0x106, 0x37),
        (0x107, 0x38), (0x108, 0x39)] } 2).fp = 0xCBF43926#32 := by decide +kernel

/-- E14: the sum of the bounds check does not wrap. -/
theorem test_fprint_no_wrap :
    (ran { ready 0xFFFFFFFF with fpBase := 0xFFFFFFFF, fpLen := 2 } 2).statusWord = 0x00002002#32 := by decide +kernel

/-- E6. -/
theorem test_classify_bounds : (ran (ready 0x200) 3).statusWord = 0x00002002#32 := by decide +kernel

/-- V-M1: the step with a carry, checked by hand in the spec. -/
theorem test_mixStep_carry : mixStep ⟨1, 2, 3, 4, 5, 0xFFFFFFF0⟩ 0x20 0 .cic6102 =
    ⟨0x00000006, 0x00000032, 0x00000023, 0x00000005, 0x00000025, 0x00000010⟩ := by decide +kernel

/-- V-M8: CIC-6105 uses the auxiliary word. -/
theorem test_mixStep_aux : mixStep ⟨0x10, 0, 0, 0, 0, 0⟩ 3 0xA5A5A5A5 .cic6105 =
    ⟨0xA5A5A5B6, 0x00000000, 0x00000003, 0x00000000, 0x00000018, 0x00000003⟩ := by decide +kernel

/-- Section 2.6, first row, CIC-6106 and CIC-6103. -/
theorem test_finalize :
    finalize ⟨0x11111111, 0x22222222, 0x33333333, 0x44444444, 0x55555555, 0x66666666⟩ .cic6106 =
      (0xE4B17E4B#32, 0x5B05B05B#32) ∧
    finalize ⟨0x11111111, 0x22222222, 0x33333333, 0x44444444, 0x55555555, 0x66666666⟩ .cic6103 =
      (0x55555555#32, 0x88888888#32) := by decide +kernel

/-- E5 and E9: BOUNDS takes priority over UNIDENTIFIED. -/
theorem test_cksum_errors :
    (ran (ready 0x200) 4).statusWord = 0x00002002#32 ∧ (ran (ready 0x101000) 4).statusWord = 0x00003002#32 := by
  decide +kernel

/-- P3 step 4: both words are written, big-endian. -/
theorem test_hdrfix_writes : (ran staged 5).statusWord = 0x000100CA#32 ∧
    (ran staged 5).image = [(0x10, 0xA3), (0x11, 0x88), (0x12, 0x67), (0x13, 0x59), (0x14, 0x40), (0x15, 0xEC),
      (0x16, 0x67), (0x17, 0x59)] := by decide +kernel

/-- P3 steps 5 and 7: nothing to write, and no pair. -/
theorem test_hdrfix_matches : (ran (ran staged 5) 5).statusWord = 0x0002003A#32 ∧
    (ran (ready 0x200) 5).statusWord = 0x00033002#32 := by decide +kernel

/-- E8: the source's stated minimum is refused. -/
theorem test_fix_bounds : (ran (ready 0x100040) 6).statusWord = 0x00002002#32 := by decide +kernel

/-! ### Registers and moves (95_test_vectors.md section 4, G2 and G3, and program P7) -/

/-- G2 and G3: the stored identity. -/
theorem test_id_write :
    (after (step (playing State.reset [.regWrite 3 0x6])) State.reset).idWord = 0#32 ∧
    (after (step (playing State.reset [.regWrite 3 0xD])) State.reset).idWord = 5#32 := by decide +kernel

/-- P7, outcome (b): the second CMD write finds BUSY = 1. -/
theorem test_overrun :
    (after (step (pendingWord (ready 0x101000) 4 [.regWrite 0 0])) State.reset).ovr = true ∧
    (after (step (pendingWord (ready 0x101000) 4 [.regWrite 0 0])) State.reset).pending = some 4#32 := by decide +kernel

/-- P7, outcome (a), with the engine's turn between the two CMD writes and NOP in CKSUM's place (R246, log entry 19): the
second command is accepted and OVR stays 0. -/
theorem test_no_overrun :
    (after (run 3 (playing State.reset [.regWrite 0 0, .engine, .regWrite 0 0])) State.reset).ovr = false ∧
    (after (run 3 (playing State.reset [.regWrite 0 0, .engine, .regWrite 0 0])) State.reset).pending = some 0#32 := by
  decide +kernel

/-- R86: the race, below IMG_LEN only. -/
theorem test_image_race :
    isRace (step (pendingWord (ready 0x20) 0 [.imgWrite 0x1F 1])) = true ∧
    isRace (step (pendingWord (ready 0x20) 0 [.imgWrite 0x20 1])) = false := by decide +kernel

/-- P7 as a host program (R107): its moves, with one poll of STATUS before the completion; the schedule of outcome (b)
(log entry 19). -/
theorem test_host_program :
    hostMoves [.wr 0x010 0x101000, .wr 0x00C 2, .cmd .cksum, .cmd .nop, .wait 1] =
      [.regWrite 4 0x101000, .regWrite 3 2, .regWrite 0 4, .regWrite 0 0, .regRead 1, .engine, .regRead 1] := by
  decide +kernel

/-! ### Two boot-code windows: all zero, and one forged to the CIC-6102 constant (95_test_vectors.md 2.3 and 3.3)

The window is BC_OFF, BC_LEN throughout (R8): the forged bytes are its last four, wherever it ends. Only the values of
the two fingerprints below depend on the value of BC_LEN. -/

/-- The address just past the boot-code window. -/
def bootEnd : Nat := Config.bcOff + Config.bcLen

/-- The address of the last four bytes of the boot-code window, which a forged image replaces. -/
def forgeOff : Nat := bootEnd - 4

/-- The CRC accumulator after `n` zero bytes; the match lets the kernel hold a numeral at each turn. -/
def zeroRun : Nat → Nat → Nat
  | 0, v => v
  | n + 1, v =>
    match (crcStep (BitVec.ofNat 32 v) 0).toNat with
    | 0 => zeroRun n 0
    | k + 1 => zeroRun n (k + 1)

theorem zeroRun_succ (n v : Nat) : zeroRun (n + 1) v = zeroRun n (crcStep (BitVec.ofNat 32 v) 0).toNat := by
  rw [zeroRun]; split <;> simp_all

theorem fingerprintLoop_zeroes (m : Image) (n a : Nat) (acc : Word)
    (h : ∀ b, a ≤ b → b < a + n → readByte m b = 0) :
    fingerprintLoop m n a acc = BitVec.ofNat 32 (zeroRun n acc.toNat) := by
  induction n generalizing a acc with
  | zero => simp [fingerprintLoop, zeroRun]
  | succ n ih =>
    rw [fingerprintLoop, ih _ _ fun b h1 h2 => h b (by omega) (by omega), zeroRun_succ, h a (by omega) (by omega)]
    simp

theorem zeroRun_window : zeroRun (Config.bcLen - 4) 0xFFFFFFFF = 0x97909CFF := by decide +kernel

/-- The fingerprint of a boot-code window that is zero up to its last four bytes. -/
theorem bootFingerprint_tail (m : Image) (h : ∀ b, Config.bcOff ≤ b → b < forgeOff → readByte m b = 0) :
    bootFingerprint m = ~~~ fingerprintLoop m 4 forgeOff 0x97909CFF#32 := by
  have e : Config.bcLen = (Config.bcLen - 4) + 4 := by decide
  have f : Config.bcOff + (Config.bcLen - 4) = forgeOff := by decide
  rw [bootFingerprint, fingerprint, e, fingerprintLoop_add, f,
    fingerprintLoop_zeroes m (Config.bcLen - 4) Config.bcOff _ fun b h1 h2 => h b h1 (f ▸ h2),
    show Config.crcInit.toNat = 0xFFFFFFFF from rfl, zeroRun_window]

/-- An image whose window fingerprints to the CIC-6102 constant (bytes found by solving R123 backwards). -/
def forged : Image := [(forgeOff, 0xD0), (forgeOff + 1, 0x2A), (forgeOff + 2, 0x52), (forgeOff + 3, 0x3E)]

theorem test_boot_zero : bootFingerprint [] = 0xCAD93467#32 := by
  rw [bootFingerprint_tail [] fun _ _ _ => rfl]; decide +kernel

theorem test_boot_forged : bootFingerprint forged = 0x90BB6CB5#32 := by
  rw [bootFingerprint_tail forged]
  · decide +kernel
  · intro b _ h
    simp only [forged, readByte_cons]
    rw [if_neg (by omega), if_neg (by omega), if_neg (by omega), if_neg (by omega)]
    rfl

/-- P3 step 6: CLASSIFY of the zero image is no error. -/
theorem test_classify_zero : ∃ t, exec .classify (ready 0x101000) = .next t ∧
    t.fp = 0xCAD93467#32 ∧ t.id = .unknown ∧ t.statusWord = 0x00000006#32 := by
  obtain ⟨t, ht⟩ := exec_isNext .classify (ready 0x101000)
  refine ⟨t, ht, ?_⟩
  rcases exec_classify_inv ht with ⟨h, _⟩ | ⟨_, rfl⟩
  · exact absurd h (by decide)
  · have e : bootFingerprint (ready 0x101000).image = 0xCAD93467#32 := test_boot_zero
    simp only [State.complete_fp, State.complete_id, State.classifyImage_fp, State.classifyImage_id,
      State.ensureTable_image, State.statusWord, e]
    decide +kernel

/-! ### Witnesses: for every obligation with hypotheses, a concrete state and operands that meet them -/

theorem forged_bytes : fingerprintBytes (Stated.bootBytes forged) = 0x90BB6CB5#32 := by
  have h := test_boot_forged
  rw [bootFingerprint, fingerprint, fingerprintLoop_eq_foldl] at h
  exact h

theorem zero_bytes : fingerprintBytes (Stated.bootBytes []) = 0xCAD93467#32 := by
  have h := test_boot_zero
  rw [bootFingerprint, fingerprint, fingerprintLoop_eq_foldl] at h
  exact h

/-- The forged image, whole. -/
def forgedState : State := { ready 0x101000 with image := forged }

theorem forged_wf : Memory.wf forged = true := by decide

theorem witness_IllegalWordsCompleteWithIllegalCmd :
    decode 0x7#32 = .error .opUnknown ∧ decode 0x10#32 = .error .zNotZero ∧ decode 0xFFFFFFFF#32 = .error .zNotZero ∧
    (playing State.reset [.regWrite 0 0x7]).busy = false ∧
    (playing State.reset [.regWrite 0 0x7]).moves = [.regWrite 0 0x7] ∧
    (pendingWord State.reset 0x7 []).pending = some 0x7#32 ∧ (pendingWord State.reset 0x7 []).moves = [] ∧
    (pendingWord State.reset 0x10 [.engine]).pending = some 0x10#32 ∧
    (pendingWord State.reset 0x10 [.engine]).moves = [.engine] := by decide

theorem witness_StepRunsTheDecodedCommand :
    (pendingWord State.reset 6 []).pending = some 6#32 ∧ decode 6#32 = .ok .fix ∧
    (pendingWord State.reset 6 []).moves = [] ∧ (pendingWord State.reset 6 [.engine]).moves = [.engine] := by decide

theorem witness_IdleStepChangesNothing :
    State.reset.pending = none ∧ State.reset.moves = [] ∧ (playing State.reset [.engine]).moves = [.engine] := by decide

theorem witness_OnlyTheHostRaceStopsTheMachine :
    (pendingWord (ready 0x20) 0 [.imgWrite 0x1F 1]).raceNext ∧ ¬ State.reset.raceNext :=
  ⟨⟨0x1F, 1, [], by decide⟩, by rintro ⟨_, _, _, h, _⟩; exact nomatch h⟩

/-- Idle, and CKSUM pending behind two host accesses: with an engine's turn between them, and with none to come. -/
theorem witness_EveryAcceptedCommandCompletes :
    State.reset.busy = State.reset.pending.isSome ∧
    (∃ s : State, s = pendingWord State.reset 4 [.regRead 1, .engine, .reset] ∧ s.busy = s.pending.isSome ∧
      s.busy = true ∧ s.pending = some 4#32 ∧ (∀ m ∈ [Move.regRead 1], m ≠ .engine ∧ m ≠ .reset) ∧
      s.moves = [.regRead 1] ++ .engine :: [.reset]) ∧
    ∃ s : State, s = pendingWord State.reset 7 [.regRead 1, .regWrite 0 0] ∧ s.busy = true ∧ s.pending = some 7#32 ∧
      (∀ m ∈ [Move.regRead 1, .regWrite 0 0], m ≠ .engine ∧ m ≠ .reset) ∧ s.moves = [.regRead 1, .regWrite 0 0] :=
  ⟨rfl, ⟨_, rfl, rfl, rfl, rfl, by decide, rfl⟩, _, rfl, rfl, rfl, by decide, rfl⟩

/-- E13, E14 and E12: beyond, beyond without a wrap, and at the end of the image. -/
theorem witness_FprintResult :
    (∃ s : State, s = { ready 0x20 with fpBase := 0x21 } ∧ s.imgLen.toNat < s.fpBase.toNat + s.fpLen.toNat) ∧
    (∃ s : State, s = { ready 0xFFFFFFFF with fpBase := 0xFFFFFFFF, fpLen := 2 } ∧
      s.imgLen.toNat < s.fpBase.toNat + s.fpLen.toNat) ∧
    ∃ s : State, s = { ready 0x20 with fpBase := 0x20 } ∧ s.fpBase.toNat + s.fpLen.toNat ≤ s.imgLen.toNat :=
  ⟨⟨_, rfl, by decide⟩, ⟨_, rfl, by decide⟩, _, rfl, by decide⟩

/-- IMG_LEN at the end of the boot-code window, and one below it. -/
theorem witness_ClassifyResult :
    (ready (BitVec.ofNat 32 (bootEnd - 1))).imgLen.toNat < Config.bcOff + Config.bcLen ∧
    Config.bcOff + Config.bcLen ≤ (ready (BitVec.ofNat 32 bootEnd)).imgLen.toNat := by decide

/-- Two images that differ at the bytes just outside the window. -/
theorem witness_ClassifyDependsOnlyOnTheBootCode :
    ∃ s s' t t' : State, s = ready (BitVec.ofNat 32 bootEnd) ∧
      s' = { ready 0x101000 with image := [(Config.bcOff - 1, 1), (bootEnd, 2)] } ∧
      Config.bcOff + Config.bcLen ≤ s.imgLen.toNat ∧ Config.bcOff + Config.bcLen ≤ s'.imgLen.toNat ∧
      (∀ a, Config.bcOff ≤ a → a < Config.bcOff + Config.bcLen → readByte s.image a = readByte s'.image a) ∧
      exec .classify s = .next t ∧ exec .classify s' = .next t' := by
  obtain ⟨t, ht⟩ := exec_isNext .classify (ready (BitVec.ofNat 32 bootEnd))
  obtain ⟨t', ht'⟩ := exec_isNext .classify { ready 0x101000 with image := [(Config.bcOff - 1, 1), (bootEnd, 2)] }
  refine ⟨_, _, t, t', rfl, rfl, by decide, by decide, fun a h1 h2 => ?_, ht, ht'⟩
  have low : Config.bcOff - 1 < Config.bcOff := by decide
  simp only [readByte_cons]
  rw [if_neg (by omega), if_neg (by rw [bootEnd]; omega)]
  rfl

theorem witness_AuxiliaryReadsStayInTheirWindow : 0x3FFFF < 0x40000 ∧ Cic.cic6106 ≠ .cic6105 := by decide

theorem witness_CksumResult :
    (ready 0x100FFF).imgLen.toNat < 0x101000 ∧ 0x101000 ≤ (ready 0x101000).imgLen.toNat ∧
    (ready 0x101000).id = .unknown ∧ 0x101000 ≤ staged.imgLen.toNat ∧ staged.id = .known .cic6103 := by decide

theorem witness_ChecksumClosedForms :
    0x101000 ≤ staged.imgLen.toNat ∧ staged.id = .known .cic6103 ∧ ∃ t, exec .cksum staged = .next t :=
  ⟨by decide, by decide, exec_isNext _ _⟩

theorem witness_Cic6101And6102ChecksumsAgree :
    0x101000 ≤ (ready 0x101000).imgLen.toNat ∧ (∃ t, exec .cksum { ready 0x101000 with id := .known .cic6101 } = .next t) ∧
    ∃ t, exec .cksum { ready 0x101000 with id := .known .cic6102 } = .next t :=
  ⟨by decide, exec_isNext _ _, exec_isNext _ _⟩

theorem witness_HdrfixResult :
    (ready 0x17).imgLen.toNat < 0x18 ∧ 0x18 ≤ (ready 0x18).imgLen.toNat ∧ (ready 0x18).cv = false ∧
    (ready 0x18).id = .unknown ∧ ({ ready 0x18 with id := .known .cic6102 } : State).cv = false ∧
    ({ ready 0x18 with id := .known .cic6102 } : State).id ≠ .unknown ∧
    0x18 ≤ staged.imgLen.toNat ∧ staged.cv = true := by decide

theorem witness_FixResult :
    (ready 0x100FFF).imgLen.toNat < 0x101000 ∧ 0x101000 ≤ (ready 0x101000).imgLen.toNat ∧
    classify (fingerprintBytes (Stated.bootBytes (ready 0x101000).image)) = .unknown ∧
    0x101000 ≤ forgedState.imgLen.toNat ∧
    classify (fingerprintBytes (Stated.bootBytes forgedState.image)) = .known .cic6102 ∧
    ∃ k0 k1, finalize (Stated.checksumFold forgedState.image .cic6102) .cic6102 = (k0, k1) := by
  refine ⟨by decide, by decide, ?_, by decide, ?_, _, _, rfl⟩
  · rw [show (ready 0x101000).image = [] from rfl, zero_bytes]; decide
  · rw [show forgedState.image = forged from rfl, forged_bytes]; decide

/-- What FIX does on the forged image: it is identified, and compares. -/
theorem fix_forged : ∃ t, exec .fix forgedState = .next t ∧
    t = (forgedState.ensureTable.classifyImage.latchChecksum .cic6102).headerFix := by
  obtain ⟨t, ht⟩ := exec_isNext .fix forgedState
  refine ⟨t, ht, ?_⟩
  have e : classify (bootFingerprint forgedState.image) = .known .cic6102 := by
    rw [show forgedState.image = forged from rfl, test_boot_forged]; decide
  rcases exec_fix_inv ht with ⟨h, _⟩ | ⟨_, h, _⟩ | ⟨_, c, h, rfl⟩
  · exact absurd h (by decide)
  · rw [e] at h; exact nomatch h
  · rw [e] at h; injection h with h; rw [h]

/-- What FIX does on the zero image: UNIDENTIFIED (P4). -/
theorem fix_zero : ∃ t, exec .fix (ready 0x101000) = .next t ∧
    t = (ready 0x101000).ensureTable.classifyImage.complete .unidentified .unidentified := by
  obtain ⟨t, ht⟩ := exec_isNext .fix (ready 0x101000)
  refine ⟨t, ht, ?_⟩
  have e : classify (bootFingerprint (ready 0x101000).image) = .unknown := by
    rw [show (ready 0x101000).image = [] from rfl, test_boot_zero]; decide
  rcases exec_fix_inv ht with ⟨h, _⟩ | ⟨_, _, h⟩ | ⟨_, c, h, _⟩
  · exact absurd h (by decide)
  · exact h
  · rw [e] at h; exact nomatch h

theorem witness_FixEqualsItsThreeStages :
    0x101000 ≤ (ready 0x101000).imgLen.toNat ∧ 0x101000 ≤ forgedState.imgLen.toNat ∧
    (∃ s1, exec .classify (ready 0x101000) = .next s1 ∧ s1.id = .unknown) ∧
    ∃ s1, exec .classify forgedState = .next s1 ∧ s1.id ≠ .unknown := by
  refine ⟨by decide, by decide, ?_, ?_⟩
  · obtain ⟨t, h, _, hid, _⟩ := test_classify_zero
    exact ⟨t, h, hid⟩
  · obtain ⟨t, ht⟩ := exec_isNext .classify forgedState
    refine ⟨t, ht, ?_⟩
    rcases exec_classify_inv ht with ⟨h, _⟩ | ⟨_, rfl⟩
    · exact absurd h (by decide)
    · simp only [State.complete_id, State.classifyImage_id, State.ensureTable_image]
      rw [show forgedState.image = forged from rfl, test_boot_forged]
      decide

theorem witness_FixIsIdempotent :
    (∃ t r : State, Memory.wf forgedState.image = true ∧ 0x101000 ≤ forgedState.imgLen.toNat ∧ exec .fix forgedState = .next t ∧
      r.image = t.image ∧ 0x101000 ≤ r.imgLen.toNat ∧ (t.res = .fixed ∨ t.res = .alreadyCorrect)) ∧
    ∃ t r : State, Memory.wf (ready 0x101000).image = true ∧ 0x101000 ≤ (ready 0x101000).imgLen.toNat ∧
      exec .fix (ready 0x101000) = .next t ∧ r.image = t.image ∧ 0x101000 ≤ r.imgLen.toNat ∧ t.res = .unidentified := by
  obtain ⟨t, ht, e⟩ := fix_forged
  obtain ⟨u, hu, e'⟩ := fix_zero
  have big : 0x101000 ≤ (ready 0x101000).imgLen.toNat := by decide
  refine ⟨⟨t, { ready 0x101000 with image := t.image }, by decide, by decide, ht, rfl, big, ?_⟩,
    u, { ready 0x101000 with image := u.image }, by decide, by decide, hu, rfl, big, by rw [e']; rfl⟩
  rw [e, State.headerFix_res]
  split <;> simp

theorem witness_StoredPairIsConsistentAfterPatch :
    (∃ t, Memory.wf staged.image = true ∧ exec .hdrfix staged = .next t ∧ t.err = .none ∧ t.w0 = true) ∧
    (∃ t, exec .hdrfix { staged with ck0 := 0, ck1 := 0 } = .next t ∧ t.err = .none ∧ t.w0 = false ∧ t.w1 = false) ∧
    ∃ t, Memory.wf forgedState.image = true ∧ exec .fix forgedState = .next t ∧ t.err = .none := by
  obtain ⟨t, ht, e⟩ := fix_forged
  exact ⟨⟨_, by decide, rfl, by decide +kernel⟩, ⟨_, rfl, by decide +kernel⟩, t, by decide, ht, by rw [e]; rfl⟩

theorem witness_CommandsWriteOnlyTheHeaderWords :
    ∃ t, exec .hdrfix staged = .next t ∧ (0x0F < 0x10 ∨ 0x18 ≤ 0x0F) ∧ (0x18 < 0x10 ∨ 0x18 ≤ 0x18) :=
  ⟨_, rfl, by decide, by decide⟩

theorem witness_MemoryFrameOfEveryCommand :
    (∃ t, exec .tblgen State.reset = .next t) ∧ Instr.tblgen ≠ .hdrfix ∧ Instr.tblgen ≠ .fix ∧
    ∃ t, exec .hdrfix staged = .next t ∧ t.w0 = true ∧ t.w1 = true ∧
      ¬(t.w0 = true ∧ 0x10 ≤ 0x14 ∧ 0x14 < 0x14) ∧ ¬(t.w1 = true ∧ 0x14 ≤ 0x13 ∧ 0x13 < 0x18) :=
  ⟨exec_isNext _ _, by decide, by decide, _, rfl, by decide +kernel⟩

theorem witness_RegisterFrameOfEveryCommand : (∃ t, exec .nop staged = .next t) ∧ (∃ t, exec .fprint staged = .next t) ∧
    (∃ t, exec .hdrfix staged = .next t) ∧ ∃ t, exec .fix forgedState = .next t :=
  ⟨exec_isNext _ _, exec_isNext _ _, exec_isNext _ _, exec_isNext _ _⟩

theorem witness_ErrorsChangeOnlyStatus :
    (∃ t, exec .hdrfix (ready 0x17) = .next t ∧ t.err ≠ .none) ∧
    (∃ t, exec .fix (ready 0x100FFF) = .next t ∧ t.err ≠ .none ∧ t.err ≠ .unidentified) ∧
    ∃ t, exec .fix (ready 0x101000) = .next t ∧ t.err = .unidentified := by
  obtain ⟨u, hu, e⟩ := fix_zero
  exact ⟨⟨_, rfl, by decide⟩, ⟨_, rfl, by decide⟩, u, hu, by rw [e]; rfl⟩

theorem witness_ErrorCodesByCauseAndPriority :
    (∃ t, exec .fprint { ready 0x20 with fpBase := 0x21 } = .next t ∧ t.err = .bounds) ∧
    (∃ t, exec .cksum (ready 0x101000) = .next t ∧ t.err = .unidentified) ∧
    (∃ t, exec .hdrfix (ready 0x18) = .next t ∧ t.err = .unidentified) ∧
    ∃ t, exec .hdrfix { ready 0x18 with id := .known .cic6102 } = .next t ∧ t.err = .noChecksum :=
  ⟨⟨_, rfl, by decide⟩, ⟨_, rfl, by decide⟩, ⟨_, rfl, by decide⟩, _, rfl, by decide⟩

theorem witness_ResultCodesByOutcome :
    (∃ t, exec .hdrfix staged = .next t ∧ t.res = .fixed) ∧
    (∃ t, exec .hdrfix { staged with ck0 := 0, ck1 := 0 } = .next t ∧ t.res = .alreadyCorrect) ∧
    (∃ t, exec .hdrfix (ready 0x18) = .next t ∧ t.res = .unidentified) ∧
    ∃ t, exec .cksum (ready 0x101000) = .next t ∧ t.res = .none :=
  ⟨⟨_, rfl, by decide +kernel⟩, ⟨_, rfl, by decide +kernel⟩, ⟨_, rfl, by decide⟩, _, rfl, by decide⟩

theorem witness_StatusWriteOneToClear :
    (playing State.reset [.regWrite 1 0x102]).moves = .regWrite 1 0x102#32 :: [] ∧
    (0x102#32).getLsbD 1 = true ∧ (0x102#32).getLsbD 8 = true := by decide

theorem witness_CommandRegisterAccess :
    (playing State.reset [.regRead 0]).moves = [.regRead 0] ∧
    (playing State.reset [.regWrite 0 4]).moves = [.regWrite 0 4] ∧ (playing State.reset [.regWrite 0 4]).busy = false ∧
    (pendingWord State.reset 4 [.regWrite 0 0]).moves = [.regWrite 0 0] ∧
    (pendingWord State.reset 4 [.regWrite 0 0]).busy = true := by decide

theorem witness_WritableRegisters :
    (playing State.reset [.regWrite 2 1]).moves = [.regWrite 2 1] ∧
    (playing State.reset [.regWrite 3 5]).moves = [.regWrite 3 5] ∧ ((5#32).extractLsb' 0 3).toNat ≤ 5 ∧
    (playing State.reset [.regWrite 3 6]).moves = [.regWrite 3 6] ∧ ¬ ((6#32).extractLsb' 0 3).toNat ≤ 5 ∧
    (playing State.reset [.regWrite 4 1]).moves = [.regWrite 4 1] ∧
    (playing State.reset [.regWrite 5 1]).moves = [.regWrite 5 1] ∧
    (playing State.reset [.regWrite 6 1]).moves = [.regWrite 6 1] ∧
    (playing State.reset [.regWrite 6 1]).busy = false := by decide

theorem witness_BusyWritesOnlySetOvr :
    (pendingWord State.reset 4 [.regWrite 3 2]).moves = [.regWrite 3 2] ∧
    (pendingWord State.reset 4 [.regWrite 3 2]).busy = true ∧ (3#10) ∈ [0#10, 3#10, 4#10, 5#10, 6#10] := by decide

theorem witness_ReadOnlyAndReservedWritesAreIgnored :
    (playing State.reset [.regWrite 7 1]).moves = [.regWrite 7 1] ∧ 7 ≤ (7#10).toNat ∧
    (pendingWord State.reset 4 [.regWrite 0x3FF 1]).moves = [.regWrite 0x3FF 1] ∧ 7 ≤ (0x3FF#10).toNat := by decide

theorem witness_IdleReadsFollowTheRegisterMap :
    (playing State.reset [.regRead 17]).moves = [.regRead 17] ∧ (playing State.reset [.regRead 17]).busy = false ∧
    (18 ≤ (18#10).toNat ∧ (18#10).toNat < 0x100) ∧ (18 ≤ (0xFF#10).toNat ∧ (0xFF#10).toNat < 0x100) ∧
    0x200 ≤ (0x200#10).toNat ∧ 0x200 ≤ (0x3FF#10).toNat ∧ (0x100#10).toNat = 0x100 + (0 : Fin 256).val ∧
    (0x1FF#10).toNat = 0x100 + (255 : Fin 256).val := by decide

/-- TBLGEN pending with TV = 0 (a build), CLASSIFY out of bounds (none), and TV = 1; and the ends of the ranges. -/
theorem witness_BusyReads :
    (∃ s : State, s = pendingWord State.reset 1 [.regRead 0x100] ∧ s.moves = [.regRead 0x100] ∧ s.busy = true ∧
      s.tv = false ∧ Stated.buildsTable s) ∧
    (∃ s : State, s = pendingWord State.reset 3 [.regRead 0x100] ∧ s.moves = [.regRead 0x100] ∧ s.busy = true ∧
      s.tv = false ∧ ¬ Stated.buildsTable s) ∧
    (∃ s : State, s = pendingWord State.reset.buildTable 1 [.regRead 0x1FF] ∧ s.moves = [.regRead 0x1FF] ∧
      s.busy = true ∧ s.tv = true ∧ s.table = builtTable) ∧
    (7 ≤ (7#10).toNat ∧ (7#10).toNat ≤ 17) ∧ (7 ≤ (17#10).toNat ∧ (17#10).toNat ≤ 17) ∧
    (18 ≤ (18#10).toNat ∧ (18#10).toNat < 0x100) ∧ 0x200 ≤ (0x200#10).toNat ∧
    (0x100#10).toNat = 0x100 + (0 : Fin 256).val ∧ (0x1FF#10).toNat = 0x100 + (255 : Fin 256).val := by
  refine ⟨⟨_, rfl, rfl, rfl, rfl, .inl rfl⟩, ⟨_, rfl, rfl, rfl, rfl, ?_⟩, ⟨_, rfl, rfl, rfl, rfl, rfl⟩, by decide⟩
  unfold Stated.buildsTable
  decide

theorem witness_InterruptOutput :
    (∃ t, (pendingWord { State.reset with ie := true } 7 []).pending = some 7#32 ∧
      engineMove (pendingWord { State.reset with ie := true } 7 []) = .next t) ∧
    ∃ t, step (playing { State.reset with ie := true, done := true } [.regWrite 1 2]) = .next t ∧
      (playing { State.reset with ie := true, done := true } [.regWrite 1 2]).irq = true ∧ (2#32).getLsbD 1 = true :=
  ⟨⟨_, rfl, rfl⟩, _, rfl, by decide, by decide⟩

theorem witness_HostImageWrites :
    (pendingWord (ready 0x20) 0 [.imgWrite 0x1F 1]).moves = [.imgWrite 0x1F 1] ∧
    (pendingWord (ready 0x20) 0 [.imgWrite 0x1F 1]).busy = true ∧ (0x1F#32).toNat < (ready 0x20).imgLen.toNat ∧
    (ready 0x20).imgLen.toNat ≤ (0x20#32).toNat ∧ (playing (ready 0x20) [.imgWrite 0x1F 1]).busy = false ∧
    Memory.wf (playing (ready 0x20) [.imgWrite 0x1F 1]).image = true := by decide

theorem witness_HostImageReads :
    (pendingWord staged 5 [.imgRead 0x17]).moves = [.imgRead 0x17] ∧ (pendingWord staged 5 [.imgRead 0x17]).busy = true ∧
    (0x10 ≤ (0x10#32).toNat ∧ (0x10#32).toNat < 0x18) ∧ (0x10 ≤ (0x17#32).toNat ∧ (0x17#32).toNat < 0x18) ∧
    (0x0F#32).toNat < 0x10 ∧ 0x18 ≤ (0x18#32).toNat ∧ (playing staged [.imgRead 0x10]).busy = false := by decide

theorem witness_ResetWhileIdle :
    (playing staged [.reset]).moves = [.reset] ∧ (playing staged [.reset]).busy = false := by decide

theorem witness_ResetDuringACommand :
    (pendingWord staged 5 [.reset]).moves = [.reset] ∧ (pendingWord staged 5 [.reset]).busy = true ∧
    Memory.wf (pendingWord staged 5 [.reset]).image = true ∧ (0x0F < 0x10 ∨ 0x18 ≤ 0x0F) ∧
    (0x10 ≤ 0x17 ∧ 0x17 < 0x18) := by decide

/-- A state of a run, in the middle of a HDRFIX that will write. -/
theorem staged_inv : (pendingWord staged 5 [.regRead 1]).Inv where
  image_wf := by decide
  busy_pending := by decide
  cv_known := by decide
  tv_built := by decide
  busy_clear := by decide
  outcome := ⟨by decide, by decide, by decide, by decide, by decide⟩

theorem witness_EveryStepKeepsTheInvariant :
    (pendingWord staged 5 [.regRead 1]).Inv ∧ ∃ t, step (pendingWord staged 5 [.regRead 1]) = .next t :=
  ⟨staged_inv, _, rfl⟩

theorem witness_ChecksumValidImpliesKnownIdentity :
    ∃ t, (staged.cv = true → staged.id.code ≠ 0#3) ∧ step staged = .next t ∧ t.cv = true :=
  ⟨_, by decide, rfl, rfl⟩

theorem witness_TableValidLastsUntilReset :
    ∃ t, step (pendingWord State.reset.buildTable 1 []) = .next t ∧
      (∀ rest, (pendingWord State.reset.buildTable 1 []).moves ≠ .reset :: rest) ∧
      (pendingWord State.reset.buildTable 1 []).tv = true ∧
      ∀ i : Fin 256, (pendingWord State.reset.buildTable 1 []).table[i] = tableEntry (BitVec.ofNat 8 i.val) :=
  ⟨_, rfl, fun _ h => (nomatch h), rfl, fun i => by
    rw [show (pendingWord State.reset.buildTable 1 []).table = builtTable from rfl, builtTable]; simp⟩

theorem witness_OverrunFlagIsSticky :
    ∃ t, step (pendingWord { State.reset with ovr := true } 0 []) = .next t ∧
      (pendingWord { State.reset with ovr := true } 0 []).ovr = true :=
  ⟨_, rfl, rfl⟩

/-- A reset clears a nonzero CK0, and a CKSUM changes the accumulators of one of two states that differ in them only. -/
theorem witness_OnlyCksumAndFixWriteThePair :
    (∃ t, step (playing staged [.reset]) = .next t ∧ t.ck0 ≠ staged.ck0) ∧
    ∃ s t, s.pending = some (encode .cksum) ∧ step s = .next t ∧ t.acc ≠ s.acc := by
  refine ⟨⟨_, rfl, by decide⟩, ?_⟩
  have run : ∀ a : Acc, step (pendingWord { staged with acc := a } 4 []) =
      .next ((State.latchChecksum (pendingWord { staged with acc := a } 4 []) .cic6103).complete .none .none) := fun _ => rfl
  by_cases h : checksumAcc staged.image .cic6103 = Acc.all 0
  · refine ⟨_, _, rfl, run (Acc.all 1), fun e => ?_⟩
    have e : checksumAcc staged.image .cic6103 = Acc.all 1 := e
    rw [h] at e
    exact absurd e (by decide)
  · exact ⟨_, _, rfl, run (Acc.all 0), h⟩

theorem witness_ImageBytesChangeOnlyByTheseMoves :
    (∃ t, step (pendingWord staged 5 []) = .next t ∧ readByte t.image 0x10 ≠ readByte staged.image 0x10) ∧
    ∃ t, step (playing staged [.imgWrite 0x40 7]) = .next t ∧ readByte t.image 0x40 ≠ readByte staged.image 0x40 :=
  ⟨⟨_, rfl, by decide +kernel⟩, _, rfl, by decide⟩

theorem witness_BytesBeyondImgLenDoNotMatter :
    Memory.wf (ready 0x18).image = true ∧ Memory.wf [(0x18, 1)] = true ∧
    (∀ a, a < (ready 0x18).imgLen.toNat → readByte [(0x18, 1)] a = readByte (ready 0x18).image a) ∧
    ∃ t, exec .hdrfix (ready 0x18) = .next t := by
  refine ⟨by decide, by decide, fun a h => ?_, _, rfl⟩
  have h : a < 0x18 := h
  rw [readByte_cons, if_neg (by omega)]
  rfl

/-- The last word of the image space. -/
theorem witness_ImageWordsAreBigEndian : Memory.wf [] = true ∧ 0xFFFFFFFC + 4 ≤ 2 ^ 32 := by decide

theorem witness_UnbuiltTableIsUnobservable :
    ∃ t, (pendingWord (ready 0x18) 3 []).tv = false ∧ step (pendingWord (ready 0x18) 3 []) = .next t :=
  ⟨_, rfl, rfl⟩

end Sys2Proof.Tests
end

section
/-! Proofs of family 00_scope.md. Which moves change an image byte: what `decode` answers on a word, what each kind of
move does to the image, and O57 from these by the cases of `step_inv`. -/

namespace Sys2Proof

/-- R101: a command word is its field Z above its field OP. -/
theorem zField_append_opField (w : Word) : zField w ++ opField w = w := by
  have h : zField w ++ opField w = w.extractLsb' 0 32 :=
    BitVec.extractLsb'_append_extractLsb'_eq_extractLsb' (x := w)
      (start₂ := 4) (len₂ := 28) (start₁ := 0) (len₁ := 4) rfl
  rw [h, BitVec.extractLsb'_eq_self]

/-- R103: the selector a command is decoded from is its own. -/
theorem opOf_of_decodeOp {op : BitVec 4} {i : Instr} (h : decodeOp op = .ok i) : opOf i = op := by
  unfold decodeOp at h
  split at h <;> cases h <;> exact BitVec.eq_of_toNat_eq (Eq.symm ‹_›)

/-- R106: `decode` answers a command on its own word only. -/
theorem eq_encode_of_decode {w : Word} {i : Instr} (h : decode w = .ok i) : w = encode i := by
  unfold decode at h
  split at h
  · cases h
  · next hz =>
    rw [← zField_append_opField w, Decidable.not_not.1 hz, ← opOf_of_decodeOp h, encode]

namespace Machine

variable {s t : State}

/-- R82, R190: a command leaves the image as it is, or it is HDRFIX or FIX and patches the header words. -/
theorem exec_image {i : Instr} (h : exec i s = .next t) :
    t.image = s.image ∨ (i = .hdrfix ∨ i = .fix) ∧ ∃ k0 k1, t.image = headerImage s.image k0 k1 := by
  cases i with
  | nop => left; simp [exec_nop_inv h]
  | tblgen => left; simp [exec_tblgen_inv h]
  | fprint => left; obtain ⟨-, rfl⟩ | ⟨-, rfl⟩ := exec_fprint_inv h <;> simp [State.fprinted]
  | classify => left; obtain ⟨-, rfl⟩ | ⟨-, rfl⟩ := exec_classify_inv h <;> simp
  | cksum => left; obtain ⟨-, rfl⟩ | ⟨-, -, rfl⟩ | ⟨-, c, -, rfl⟩ := exec_cksum_inv h <;> simp
  | hdrfix =>
    obtain ⟨-, rfl⟩ | ⟨-, -, rfl⟩ | ⟨-, -, -, rfl⟩ | ⟨-, -, -, rfl⟩ := exec_hdrfix_inv h
    case inr.inl => exact .inr ⟨.inl rfl, s.ck0, s.ck1, rfl⟩
    all_goals left; simp
  | fix =>
    obtain ⟨-, rfl⟩ | ⟨-, -, rfl⟩ | ⟨-, c, -, rfl⟩ := exec_fix_inv h
    case inr.inr =>
      exact .inr ⟨.inr rfl, (finalize (checksumAcc s.image c) c).1, (finalize (checksumAcc s.image c) c).2, by simp⟩
    all_goals left; simp

/-- R82: the engine changes an image byte only in 0x10-0x17, and only to complete HDRFIX or FIX. -/
theorem engineMove_changes_byte {a : Nat} (h : engineMove s = .next t)
    (hne : readByte t.image a ≠ readByte s.image a) :
    (0x10 ≤ a ∧ a < 0x18) ∧ (s.pending = some (encode .hdrfix) ∨ s.pending = some (encode .fix)) := by
  obtain ⟨-, rfl⟩ | ⟨w, e, -, -, rfl⟩ | ⟨w, i, hp, hd, hx⟩ := engineMove_inv h
  · exact absurd rfl hne
  · exact absurd rfl hne
  · obtain ht | ⟨hi, k0, k1, ht⟩ := exec_image hx
    · exact absurd (by rw [ht]) hne
    · refine ⟨?_, ?_⟩
      · by_contra ha
        exact hne (by rw [ht, readByte_headerImage_outside _ _ _ _ (by omega)])
      · rw [hp, eq_encode_of_decode hd]
        exact hi.imp (by rintro rfl; rfl) (by rintro rfl; rfl)

/-- R230, R231: the image after a reset event. -/
theorem State.resetEvent_image (s : State) :
    s.resetEvent.image = if s.busy then drawHeader s.image s.afterPending.image s.draws 8 else s.image := rfl

/-- R230, R231: a reset event changes an image byte only in 0x10-0x17, and only while BUSY = 1. -/
theorem resetEvent_changes_byte {a : Nat} (hne : readByte s.resetEvent.image a ≠ readByte s.image a) :
    (0x10 ≤ a ∧ a < 0x18) ∧ s.busy = true := by
  rw [State.resetEvent_image] at hne
  split at hne
  · next hb =>
    refine ⟨?_, hb⟩
    by_contra ha
    exact hne (readByte_drawHeader_outside _ _ _ _ _ (by omega))
  · exact absurd rfl hne

/-- R87: a host image read leaves the image as it is. -/
@[simp] theorem State.hostReadByte_image (s : State) (a : Word) : (s.hostReadByte a).image = s.image := by
  unfold State.hostReadByte
  split <;> rfl

end Machine

open Machine

/-- Settles O57, by the kinds of move of `step_inv`: register accesses and image reads keep the image, and the engine and
a reset event change only header bytes. -/
theorem imageBytesChangeOnlyByTheseMoves : Obligations.ImageBytesChangeOnlyByTheseMoves := by
  intro s t a h hne
  obtain ⟨hm, he⟩ | ⟨rest, hm, he⟩ | ⟨idx, v, rest, -, rfl⟩ | ⟨idx, rest, -, rfl⟩ | ⟨x, b, rest, hm, -, rfl⟩ |
    ⟨x, rest, -, rfl⟩ | ⟨rest, hm, rfl⟩ := step_inv h
  · obtain ⟨ha, hp⟩ := engineMove_changes_byte he hne
    exact .inr ⟨ha, .inl ⟨hp, .inl hm⟩⟩
  · obtain ⟨ha, hp⟩ := engineMove_changes_byte he hne
    exact .inr ⟨ha, .inl ⟨hp, .inr ⟨rest, hm⟩⟩⟩
  · obtain ⟨himg, -⟩ := writeRegister_frame { s with moves := rest } (regAt idx) v
    exact absurd (by rw [himg]) hne
  · exact absurd (by rw [readRegister_eq]) hne
  · refine .inl ⟨x, b, rest, hm, ?_⟩
    by_contra hx
    exact hne (readByte_writeByte_ne _ _ (Ne.symm hx))
  · exact absurd (by rw [State.hostReadByte_image]) hne
  · obtain ⟨ha, hb⟩ := resetEvent_changes_byte (s := { s with moves := rest }) hne
    exact .inr ⟨ha, .inr ⟨hb, rest, hm⟩⟩

end Sys2Proof
end

section
/-! Proofs of family 10_state.md, first part: what one step can do, case by case, and the invariant (O52, O53, O54,
O56). `exec_checksum`, `exec_table` and `exec_outcome` say once what a command can do to the fields the invariant speaks of;
`step_effect` says once what a step can do. -/

namespace Sys2Proof

namespace Machine

variable {s t : State}

/-! ### What a command leaves -/

/-- R200: a completion step ends with nothing pending, BUSY = 0 and DONE = 1. -/
theorem exec_completes {i : Instr} (h : exec i s = .next t) : t.pending = none ∧ t.busy = false ∧ t.done = true := by
  cases i with
  | nop => simp [exec_nop_inv h]
  | tblgen => simp [exec_tblgen_inv h]
  | fprint => obtain ⟨-, rfl⟩ | ⟨-, rfl⟩ := exec_fprint_inv h <;> simp [State.fprinted]
  | classify => obtain ⟨-, rfl⟩ | ⟨-, rfl⟩ := exec_classify_inv h <;> simp
  | cksum => obtain ⟨-, rfl⟩ | ⟨-, -, rfl⟩ | ⟨-, c, -, rfl⟩ := exec_cksum_inv h <;> simp
  | hdrfix => obtain ⟨-, rfl⟩ | ⟨-, -, rfl⟩ | ⟨-, -, -, rfl⟩ | ⟨-, -, -, rfl⟩ := exec_hdrfix_inv h <;> simp
  | fix => obtain ⟨-, rfl⟩ | ⟨-, -, rfl⟩ | ⟨-, c, -, rfl⟩ := exec_fix_inv h <;> simp

/-- R36, R40, R41: a command keeps the accumulators and the pair, and then CV = 1 is the old CV with the old identity;
or it is CKSUM or FIX and latches all of them from one computation. -/
theorem exec_checksum {i : Instr} (h : exec i s = .next t) :
    ((t.acc = s.acc ∧ t.ck0 = s.ck0 ∧ t.ck1 = s.ck1) ∧ (t.cv = true → s.cv = true ∧ t.id = s.id)) ∨
    ((i = .cksum ∨ i = .fix) ∧ t.cv = true ∧ ∃ c, t.id = .known c ∧ finalize t.acc c = (t.ck0, t.ck1)) := by
  cases i with
  | nop => left; simp [exec_nop_inv h]
  | tblgen => left; simp [exec_tblgen_inv h]
  | fprint => left; obtain ⟨-, rfl⟩ | ⟨-, rfl⟩ := exec_fprint_inv h <;> simp [State.fprinted]
  | classify => left; obtain ⟨-, rfl⟩ | ⟨-, rfl⟩ := exec_classify_inv h <;> simp
  | cksum =>
    obtain ⟨-, rfl⟩ | ⟨-, -, rfl⟩ | ⟨-, c, hc, rfl⟩ := exec_cksum_inv h
    case inr.inr => exact .inr ⟨.inl rfl, rfl, c, hc, rfl⟩
    all_goals left; simp
  | hdrfix => left; obtain ⟨-, rfl⟩ | ⟨-, -, rfl⟩ | ⟨-, -, -, rfl⟩ | ⟨-, -, -, rfl⟩ := exec_hdrfix_inv h <;> simp
  | fix =>
    obtain ⟨-, rfl⟩ | ⟨-, -, rfl⟩ | ⟨-, c, hc, rfl⟩ := exec_fix_inv h
    case inr.inr => exact .inr ⟨.inr rfl, rfl, c, by simpa using hc, rfl⟩
    all_goals left; simp

/-- R126: the lazy build leaves the table as it is, or TV = 1 with the built table. -/
theorem State.ensureTable_built_or_kept (s : State) :
    (s.ensureTable.tv = s.tv ∧ s.ensureTable.table = s.table) ∨
    (s.ensureTable.tv = true ∧ s.ensureTable.table = builtTable) := by
  cases htv : s.tv <;> simp [htv]

/-- R44, R126: a command keeps TV and the table, or it leaves TV = 1 and the built table, and then it builds. -/
theorem exec_table {i : Instr} (h : exec i s = .next t) :
    (t.tv = s.tv ∧ t.table = s.table) ∨
    ((t.tv = true ∧ t.table = builtTable) ∧ (s.pending = some (encode i) → Stated.buildsTable s)) := by
  cases i with
  | nop => left; simp [exec_nop_inv h]
  | tblgen => right; rw [exec_tblgen_inv h]; exact ⟨⟨rfl, rfl⟩, .inl⟩
  | fprint =>
    obtain ⟨-, rfl⟩ | ⟨hb, rfl⟩ := exec_fprint_inv h
    · left; simp
    · exact s.ensureTable_built_or_kept.imp_right (⟨·, fun hp => .inr (.inl ⟨hp, hb⟩)⟩)
  | classify =>
    obtain ⟨-, rfl⟩ | ⟨hb, rfl⟩ := exec_classify_inv h
    · left; simp
    · exact s.ensureTable_built_or_kept.imp_right (⟨·, fun hp => .inr (.inr (.inl ⟨hp, hb⟩))⟩)
  | cksum => left; obtain ⟨-, rfl⟩ | ⟨-, -, rfl⟩ | ⟨-, c, -, rfl⟩ := exec_cksum_inv h <;> simp
  | hdrfix => left; obtain ⟨-, rfl⟩ | ⟨-, -, rfl⟩ | ⟨-, -, -, rfl⟩ | ⟨-, -, -, rfl⟩ := exec_hdrfix_inv h <;> simp
  | fix =>
    obtain ⟨-, rfl⟩ | ⟨hb, -, rfl⟩ | ⟨hb, c, -, rfl⟩ := exec_fix_inv h
    · left; simp
    · exact s.ensureTable_built_or_kept.imp_right (⟨·, fun hp => .inr (.inr (.inr ⟨hp, hb⟩))⟩)
    · exact s.ensureTable_built_or_kept.imp_right (⟨·, fun hp => .inr (.inr (.inr ⟨hp, hb⟩))⟩)

/-- R82: a command keeps the canonical form of the image. -/
theorem exec_image_wf {i : Instr} (h : exec i s = .next t) (hwf : Memory.wf s.image = true) :
    Memory.wf t.image = true := by
  obtain ht | ⟨-, k0, k1, ht⟩ := exec_image h <;> rw [ht]
  · exact hwf
  · exact wf_headerImage _ _ _ hwf

/-! ### The outcome fields agree -/

/-- The compare bits are clear, as acceptance leaves them (R45). -/
def State.CompareClear (s : State) : Prop := s.m0 = false ∧ s.m1 = false ∧ s.w0 = false ∧ s.w1 = false

/-- With the compare bits clear, the outcome fields agree unless RES reports a compare. -/
theorem State.OutcomeInv.of_compareClear (hc : s.CompareClear) (hf : s.res ≠ .fixed) (ha : s.res ≠ .alreadyCorrect) :
    s.OutcomeInv := by
  obtain ⟨h0, h1, h2, h3⟩ := hc
  constructor <;> simp [*]

/-- With the compare bits clear, a completion that reports no compare leaves outcome fields that agree. -/
theorem State.OutcomeInv.complete (s : State) {e : ErrCode} {r : ResCode} (hc : s.CompareClear) (hf : r ≠ .fixed)
    (ha : r ≠ .alreadyCorrect) : (s.complete e r).OutcomeInv := .of_compareClear hc hf ha

theorem State.CompareClear.ensureTable (hc : s.CompareClear) : s.ensureTable.CompareClear := by
  simpa [State.CompareClear] using hc

/-- R183, R184: the outcome fields agree after a compare. -/
theorem State.OutcomeInv.headerFix (s : State) : s.headerFix.OutcomeInv := by
  by_cases h0 : storedWord0 s.image = s.ck0 <;> by_cases h1 : storedWord1 s.image = s.ck1 <;>
    constructor <;> simp [h0, h1]

/-- R184, R203: from clear compare bits every command leaves outcome fields that agree. -/
theorem exec_outcome {i : Instr} (h : exec i s = .next t) (hc : s.CompareClear) : t.OutcomeInv := by
  cases i with
  | nop => rw [exec_nop_inv h]; exact .complete _ hc nofun nofun
  | tblgen => rw [exec_tblgen_inv h]; exact .complete _ hc nofun nofun
  | fprint =>
    obtain ⟨-, rfl⟩ | ⟨-, rfl⟩ := exec_fprint_inv h
    · exact .complete _ hc nofun nofun
    · exact .complete _ hc.ensureTable nofun nofun
  | classify =>
    obtain ⟨-, rfl⟩ | ⟨-, rfl⟩ := exec_classify_inv h
    · exact .complete _ hc nofun nofun
    · exact .complete _ hc.ensureTable nofun nofun
  | cksum => obtain ⟨-, rfl⟩ | ⟨-, -, rfl⟩ | ⟨-, c, -, rfl⟩ := exec_cksum_inv h <;> exact .complete _ hc nofun nofun
  | hdrfix =>
    obtain ⟨-, rfl⟩ | ⟨-, -, rfl⟩ | ⟨-, -, -, rfl⟩ | ⟨-, -, -, rfl⟩ := exec_hdrfix_inv h
    case inr.inl => exact .headerFix s
    all_goals exact .complete _ hc nofun nofun
  | fix =>
    obtain ⟨-, rfl⟩ | ⟨-, -, rfl⟩ | ⟨-, c, -, rfl⟩ := exec_fix_inv h
    · exact .complete _ hc nofun nofun
    · exact .complete _ hc.ensureTable nofun nofun
    · exact .headerFix _

/-! ### What a step can do -/

/-- With no move left, the engine moves (R248). -/
theorem step_of_moves_nil (hm : s.moves = []) : step s = engineMove s := by
  unfold step; rw [hm]

/-- The first move of the list is made, on the state without it. -/
theorem step_of_moves_cons {m : Move} {rest : List Move} (hm : s.moves = m :: rest) :
    step s = makeMove m { s with moves := rest } := by
  unfold step; rw [hm]

/-- R46: a register read only records a reading. -/
theorem State.readRegister_eq_logReading (s : State) (idx : BitVec 10) :
    ∃ x n, s.readRegister idx = s.logReading x n := by
  unfold State.readRegister
  split <;> exact ⟨_, _, rfl⟩

/-- R87: an image read only records a reading. -/
theorem State.hostReadByte_eq_logReading (s : State) (a : Word) : ∃ x n, s.hostReadByte a = s.logReading x n := by
  unfold State.hostReadByte
  split <;> exact ⟨_, _, rfl⟩

/-- One step by its effect, `rest` being the moves it leaves: the engine's turn, a register write, a recorded reading,
an image write, or a reset event. -/
theorem step_effect (h : step s = .next t) : ∃ rest : List Move,
    ((s.moves = [] ∨ s.moves = .engine :: rest) ∧ engineMove { s with moves := rest } = .next t) ∨
    (∃ idx v, s.moves = .regWrite idx v :: rest ∧ t = State.writeRegister { s with moves := rest } (regAt idx) v) ∨
    (∃ x n, t = State.logReading { s with moves := rest } x n) ∨
    (∃ (a : Word) (b : Byte), t = { s with moves := rest, image := writeByte s.image a.toNat b }) ∨
    (s.moves = .reset :: rest ∧ t = State.resetEvent { s with moves := rest }) := by
  obtain ⟨hm, he⟩ | ⟨rest, hm, he⟩ | ⟨idx, v, rest, hm, ht⟩ | ⟨idx, rest, -, ht⟩ | ⟨a, b, rest, -, -, ht⟩ |
    ⟨a, rest, -, ht⟩ | ⟨rest, hm, ht⟩ := step_inv h
  · have hs : { s with moves := [] } = s := by rw [← hm]
    exact ⟨[], .inl ⟨.inl hm, hs ▸ he⟩⟩
  · exact ⟨rest, .inl ⟨.inr hm, he⟩⟩
  · exact ⟨rest, .inr (.inl ⟨idx, v, hm, ht⟩)⟩
  · obtain ⟨x, n, hx⟩ := State.readRegister_eq_logReading { s with moves := rest } idx
    exact ⟨rest, .inr (.inr (.inl ⟨x, n, ht.trans hx⟩))⟩
  · exact ⟨rest, .inr (.inr (.inr (.inl ⟨a, b, ht⟩)))⟩
  · obtain ⟨x, n, hx⟩ := State.hostReadByte_eq_logReading { s with moves := rest } a
    exact ⟨rest, .inr (.inr (.inl ⟨x, n, ht.trans hx⟩))⟩
  · exact ⟨rest, .inr (.inr (.inr (.inr ⟨hm, ht⟩)))⟩

/-- R35, R36: a register write leaves CV = 1 only where it was 1 already, and then keeps ID. -/
theorem writeRegister_cv {r : Reg} {v : Word} (h : (s.writeRegister r v).cv = true) :
    s.cv = true ∧ (s.writeRegister r v).id = s.id := by
  revert h
  cases r <;> simp only [State.writeRegister, State.unlessBusy] <;> (try split) <;> simp

/-- R44, R125: the entries of the built table. -/
theorem builtTable_getElem (i : Fin 256) : builtTable[i] = tableEntry (BitVec.ofNat 8 i.val) := by
  simp [builtTable]

/-- R44: a step that is no reset event keeps TV and the table, or leaves TV = 1 and the built table. -/
theorem step_table (h : step s = .next t) (hreset : ∀ rest, s.moves ≠ .reset :: rest) :
    (t.tv = s.tv ∧ t.table = s.table) ∨ (t.tv = true ∧ t.table = builtTable) := by
  obtain ⟨rest, ⟨-, he⟩ | ⟨idx, v, -, rfl⟩ | ⟨x, n, rfl⟩ | ⟨a, b, rfl⟩ | ⟨hm, -⟩⟩ := step_effect h
  · obtain ⟨-, rfl⟩ | ⟨w, e, -, -, rfl⟩ | ⟨w, i, -, -, hx⟩ := engineMove_inv he
    · exact .inl ⟨rfl, rfl⟩
    · exact .inl ⟨rfl, rfl⟩
    · exact (exec_table hx).imp_right And.left
  · obtain ⟨-, htable, htv, -⟩ := writeRegister_frame { s with moves := rest } (regAt idx) v
    exact .inl ⟨htv, htable⟩
  · exact .inl ⟨rfl, rfl⟩
  · exact .inl ⟨rfl, rfl⟩
  · exact absurd hm (hreset rest)

/-! ### The invariant -/

/-- The fields the invariant speaks of. -/
def State.invFields (s : State) :=
  (s.image, s.busy, s.pending, s.cv, s.id, s.tv, s.table, s.done, s.err, s.res, s.m0, s.m1, s.w0, s.w1)

/-- The invariant depends on its fields only. -/
theorem State.Inv.congr (h : s.Inv) (e : t.invFields = s.invFields) : t.Inv := by
  obtain ⟨himage, hbusy, hcv, htv, hclear, houtcome⟩ := h
  obtain ⟨hfixed, halready, hword0, hword1, herror⟩ := houtcome
  simp only [State.invFields, Prod.mk.injEq] at e
  obtain ⟨e1, e2, e3, e4, e5, e6, e7, e8, e9, e10, e11, e12, e13, e14⟩ := e
  refine ⟨?_, ?_, ?_, ?_, ?_, ⟨?_, ?_, ?_, ?_, ?_⟩⟩ <;>
    simp only [e1, e2, e3, e4, e5, e6, e7, e8, e9, e10, e11, e12, e13, e14] <;> assumption

/-- The invariant after a write turned away or done (R25). -/
theorem State.Inv.unlessBusy (h : s.Inv) (ht : s.busy = false → t.Inv) : (s.unlessBusy t).Inv := by
  cases hb : s.busy with
  | true => rw [State.unlessBusy_busy _ _ hb]; exact h.congr rfl
  | false => rw [State.unlessBusy_idle _ _ hb]; exact ht hb

/-- Acceptance keeps the invariant: the outcome fields are clear while BUSY = 1 (R45). -/
theorem State.Inv.accept (h : s.Inv) (w : Word) : (s.accept w).Inv where
  image_wf := h.image_wf
  busy_pending := rfl
  cv_known := h.cv_known
  tv_built := h.tv_built
  busy_clear _ := by simp
  outcome := .of_compareClear ⟨rfl, rfl, rfl, rfl⟩ nofun nofun

/-- A write to STATUS keeps the invariant: it only clears DONE and OVR (R32). -/
theorem State.Inv.writeStatus (h : s.Inv) (v : Word) : (s.writeStatus v).Inv := by
  obtain ⟨hfixed, halready, hword0, hword1, herror⟩ := h.outcome
  refine ⟨h.image_wf, h.busy_pending, h.cv_known, h.tv_built, fun hb => ?_, hfixed, halready, hword0, hword1, herror⟩
  obtain ⟨hdone, hc⟩ := h.busy_clear hb
  exact ⟨by rw [State.writeStatus_done, hdone]; rfl, hc⟩

/-- A write to ID keeps the invariant, because it clears CV (R35). -/
theorem State.Inv.setId (h : s.Inv) (c : Identity) : State.Inv { s with id := c, cv := false } := by
  obtain ⟨hfixed, halready, hword0, hword1, herror⟩ := h.outcome
  exact ⟨h.image_wf, h.busy_pending, nofun, h.tv_built, h.busy_clear, hfixed, halready, hword0, hword1, herror⟩

/-- A host image write keeps the invariant. -/
theorem State.Inv.writeImage (h : s.Inv) (a : Word) (b : Byte) :
    State.Inv { s with image := writeByte s.image a.toNat b } := by
  obtain ⟨hfixed, halready, hword0, hword1, herror⟩ := h.outcome
  exact ⟨wf_writeByte _ _ _ a.isLt h.image_wf, h.busy_pending, h.cv_known, h.tv_built, h.busy_clear,
    hfixed, halready, hword0, hword1, herror⟩

/-- Every host register write keeps the invariant. -/
theorem State.Inv.writeRegister (h : s.Inv) (r : Reg) (v : Word) : (s.writeRegister r v).Inv := by
  cases r
  case cmd => exact h.unlessBusy fun _ => h.accept v
  case status => exact h.writeStatus v
  case id => exact h.unlessBusy fun _ => h.setId _
  case imgLen => exact h.unlessBusy fun _ => h.congr rfl
  case fpBase => exact h.unlessBusy fun _ => h.congr rfl
  case fpLen => exact h.unlessBusy fun _ => h.congr rfl
  case ctrl => exact h.congr rfl
  all_goals exact h

/-- A reset event establishes all of the invariant but the image's form, which it keeps (R230, R231). -/
theorem State.Inv.resetEvent (h : s.Inv) : s.resetEvent.Inv where
  image_wf := by
    rw [State.resetEvent_image]
    split
    · exact wf_drawHeader _ _ _ _ (Nat.le_refl 8) h.image_wf
    · exact h.image_wf
  busy_pending := rfl
  cv_known := nofun
  tv_built := nofun
  busy_clear := nofun
  outcome := .of_compareClear ⟨rfl, rfl, rfl, rfl⟩ nofun nofun

/-- A pending command finds the compare bits clear (R45). -/
theorem State.Inv.compareClear_of_pending (h : s.Inv) {w : Word} (hp : s.pending = some w) : s.CompareClear := by
  have hb : s.busy = true := by rw [h.busy_pending, hp]; rfl
  obtain ⟨-, -, -, hc⟩ := h.busy_clear hb
  exact hc

/-- CV = 1 only with a known identity, after a command as before it (R36). -/
theorem exec_cv_known {i : Instr} (h : exec i s = .next t) (hk : s.cv = true → s.id ≠ .unknown) (hcv : t.cv = true) :
    t.id ≠ .unknown := by
  obtain ⟨-, hkeep⟩ | ⟨-, -, c, hc, -⟩ := exec_checksum h
  · obtain ⟨hs, hid⟩ := hkeep hcv
    rw [hid]; exact hk hs
  · rw [hc]; nofun

/-- A command keeps the invariant. -/
theorem State.Inv.exec {i : Instr} {w : Word} (h : s.Inv) (hp : s.pending = some w) (hx : exec i s = .next t) :
    t.Inv := by
  obtain ⟨hpend, hbusy, -⟩ := exec_completes hx
  refine ⟨exec_image_wf hx h.image_wf, by rw [hpend, hbusy]; rfl, exec_cv_known hx h.cv_known, fun htv => ?_,
    fun hb => absurd hb (by simp [hbusy]), exec_outcome hx (h.compareClear_of_pending hp)⟩
  obtain ⟨htv', htable⟩ | ⟨⟨-, hbuilt⟩, -⟩ := exec_table hx
  · rw [htable]; exact h.tv_built (htv' ▸ htv)
  · exact hbuilt

/-- The engine's turn keeps the invariant. -/
theorem State.Inv.engineMove (h : s.Inv) (he : engineMove s = .next t) : t.Inv := by
  obtain ⟨-, rfl⟩ | ⟨w, e, hp, -, rfl⟩ | ⟨w, i, hp, -, hx⟩ := engineMove_inv he
  · exact h
  · exact ⟨h.image_wf, rfl, h.cv_known, h.tv_built, nofun, .of_compareClear (h.compareClear_of_pending hp) nofun nofun⟩
  · exact h.exec hp hx

/-- R34: code 0 is UNKNOWN's alone. -/
theorem Identity.code_eq_zero_iff (c : Identity) : c.code = 0#3 ↔ c = .unknown := by
  rcases c with _ | c
  · decide
  · cases c <;> decide

end Machine

open Machine

/-- Settles O52, by the kinds of step of `step_effect`, each of which keeps the invariant. -/
theorem everyStepKeepsTheInvariant : Obligations.EveryStepKeepsTheInvariant := by
  intro s t h hstep
  obtain ⟨rest, hcase⟩ := step_effect hstep
  have hrest : State.Inv { s with moves := rest } := h.congr rfl
  obtain ⟨-, he⟩ | ⟨idx, v, -, rfl⟩ | ⟨x, n, rfl⟩ | ⟨a, b, rfl⟩ | ⟨-, rfl⟩ := hcase
  · exact hrest.engineMove he
  · exact hrest.writeRegister _ v
  · exact hrest.congr rfl
  · exact hrest.writeImage a b
  · exact hrest.resetEvent

/-- Settles O53: the engine by `exec_cv_known`, and no move of the host sets CV or changes ID under it. -/
theorem checksumValidImpliesKnownIdentity : Obligations.ChecksumValidImpliesKnownIdentity := by
  refine ⟨nofun, fun s t hk hstep hcv => ?_⟩
  rw [Ne, Identity.code_eq_zero_iff] at hk ⊢
  obtain ⟨rest, ⟨-, he⟩ | ⟨idx, v, -, rfl⟩ | ⟨x, n, rfl⟩ | ⟨a, b, rfl⟩ | ⟨-, rfl⟩⟩ := step_effect hstep
  · obtain ⟨-, rfl⟩ | ⟨w, e, -, -, rfl⟩ | ⟨w, i, -, -, hx⟩ := engineMove_inv he
    · exact hk hcv
    · exact hk hcv
    · exact exec_cv_known hx hk hcv
  · obtain ⟨hs, hid⟩ := writeRegister_cv hcv
    rw [hid]; exact hk hs
  · exact hk hcv
  · exact hk hcv
  · exact nomatch hcv

/-- Settles O54: by `step_table` the table stays, with TV, or is the built one. -/
theorem tableValidLastsUntilReset : Obligations.TableValidLastsUntilReset := by
  intro s t hstep hreset htv
  obtain ⟨hkeep, htable⟩ | ⟨hbuilt, htable⟩ := step_table hstep hreset
  · exact ⟨hkeep.trans htv, fun hs i => by rw [htable]; exact hs i⟩
  · exact ⟨hbuilt, fun _ i => by rw [htable, builtTable_getElem]⟩

/-- Settles O56: only CKSUM and FIX write the accumulators and the pair, by `exec_checksum`; no other move but a reset
event does. -/
theorem onlyCksumAndFixWriteThePair : Obligations.OnlyCksumAndFixWriteThePair := by
  intro s t hstep hne
  have unchanged : ¬(t.acc = s.acc ∧ t.ck0 = s.ck0 ∧ t.ck1 = s.ck1) := by tauto
  obtain ⟨rest, ⟨hm, he⟩ | ⟨idx, v, -, rfl⟩ | ⟨x, n, rfl⟩ | ⟨a, b, rfl⟩ | ⟨hm, -⟩⟩ := step_effect hstep
  · obtain ⟨-, rfl⟩ | ⟨w, e, -, -, rfl⟩ | ⟨w, i, hp, hd, hx⟩ := engineMove_inv he
    · exact absurd ⟨rfl, rfl, rfl⟩ unchanged
    · exact absurd ⟨rfl, rfl, rfl⟩ unchanged
    · obtain ⟨hkeep, -⟩ | ⟨hi, hcv, hpair⟩ := exec_checksum hx
      · exact absurd hkeep unchanged
      · have hw : s.pending = some (encode i) := by rw [← eq_encode_of_decode hd]; exact hp
        refine .inr ⟨hi.imp ?_ ?_, hm.imp_right fun h => ⟨rest, h⟩, hcv, hpair⟩ <;> (rintro rfl; exact hw)
  · obtain ⟨-, -, -, -, hck0, hck1, -, -, hacc, -⟩ := writeRegister_frame { s with moves := rest } (regAt idx) v
    exact absurd ⟨hacc, hck0, hck1⟩ unchanged
  · exact absurd ⟨rfl, rfl, rfl⟩ unchanged
  · exact absurd ⟨rfl, rfl, rfl⟩ unchanged
  · exact .inl ⟨rest, hm⟩

end Sys2Proof
end

section
/-! Proofs of family 10_state.md, second part: what cannot be seen. The completion step of each command forwards, branch
by branch; then two runs side by side, of states that differ in the table storage while TV = 0 (O59) and of states that
differ in image bytes at or beyond IMG_LEN (O58). -/

namespace Sys2Proof

namespace Machine

variable {s t : State}

/-! ### The completion steps, branch by branch -/

theorem exec_fprint_of_lt (h : s.imgLen.toNat < s.fpBase.toNat + s.fpLen.toNat) :
    exec .fprint s = .next (s.complete .bounds .none) := by
  simp [exec, execFprint, State.fprintNeed, h]

theorem exec_fprint_of_le (h : s.fpBase.toNat + s.fpLen.toNat ≤ s.imgLen.toNat) :
    exec .fprint s = .next s.fprinted := by
  simp [exec, execFprint, State.fprintNeed, Nat.not_lt.2 h, State.fprinted]

theorem exec_classify_of_lt (h : s.imgLen.toNat < Config.bcOff + Config.bcLen) :
    exec .classify s = .next (s.complete .bounds .none) := by
  simp [exec, execClassify, h]

theorem exec_classify_of_le (h : Config.bcOff + Config.bcLen ≤ s.imgLen.toNat) :
    exec .classify s = .next (s.ensureTable.classifyImage.complete .none .none) := by
  simp [exec, execClassify, Nat.not_lt.2 h]

theorem exec_cksum_of_lt (h : s.imgLen.toNat < 0x101000) : exec .cksum s = .next (s.complete .bounds .none) := by
  simp [exec, execCksum, h]

theorem exec_cksum_of_unknown (h : 0x101000 ≤ s.imgLen.toNat) (hid : s.id = .unknown) :
    exec .cksum s = .next (s.complete .unidentified .none) := by
  simp [exec, execCksum, Nat.not_lt.2 h, hid]

theorem exec_cksum_of_known {c : Cic} (h : 0x101000 ≤ s.imgLen.toNat) (hid : s.id = .known c) :
    exec .cksum s = .next ((s.latchChecksum c).complete .none .none) := by
  simp [exec, execCksum, Nat.not_lt.2 h, hid]

theorem exec_hdrfix_of_lt (h : s.imgLen.toNat < 0x18) : exec .hdrfix s = .next (s.complete .bounds .none) := by
  simp [exec, execHdrfix, h]

theorem exec_hdrfix_of_cv (h : 0x18 ≤ s.imgLen.toNat) (hcv : s.cv = true) : exec .hdrfix s = .next s.headerFix := by
  simp [exec, execHdrfix, Nat.not_lt.2 h, hcv]

theorem exec_hdrfix_of_unknown (h : 0x18 ≤ s.imgLen.toNat) (hcv : s.cv = false) (hid : s.id = .unknown) :
    exec .hdrfix s = .next (s.complete .unidentified .unidentified) := by
  simp [exec, execHdrfix, Nat.not_lt.2 h, hcv, hid]

theorem exec_hdrfix_of_known {c : Cic} (h : 0x18 ≤ s.imgLen.toNat) (hcv : s.cv = false) (hid : s.id = .known c) :
    exec .hdrfix s = .next (s.complete .noChecksum .none) := by
  simp [exec, execHdrfix, Nat.not_lt.2 h, hcv, hid]

theorem exec_fix_of_lt (h : s.imgLen.toNat < 0x101000) : exec .fix s = .next (s.complete .bounds .none) := by
  simp [exec, execFix, h]

theorem exec_fix_of_unknown (h : 0x101000 ≤ s.imgLen.toNat) (hid : classify (bootFingerprint s.image) = .unknown) :
    exec .fix s = .next (s.ensureTable.classifyImage.complete .unidentified .unidentified) := by
  obtain ⟨t, ht⟩ := exec_isNext .fix s
  obtain ⟨hb, -⟩ | ⟨-, -, rfl⟩ | ⟨-, c, hc, -⟩ := exec_fix_inv ht
  · omega
  · exact ht
  · exact nomatch hid.symm.trans hc

theorem exec_fix_of_known {c : Cic} (h : 0x101000 ≤ s.imgLen.toNat)
    (hid : classify (bootFingerprint s.image) = .known c) :
    exec .fix s = .next (s.ensureTable.classifyImage.latchChecksum c).headerFix := by
  obtain ⟨t, ht⟩ := exec_isNext .fix s
  obtain ⟨hb, -⟩ | ⟨-, hu, -⟩ | ⟨-, c', hc, rfl⟩ := exec_fix_inv ht
  · omega
  · exact nomatch hid.symm.trans hu
  · obtain rfl : c = c' := Identity.known.inj (hid.symm.trans hc)
    exact ht

/-! ### The table storage while TV = 0 (R44) -/

/-- The state with the table storage `T` in place of its own, which only TV = 0 allows. -/
def State.withStorage (s : State) (T : Vector Word 256) : State := if s.tv then s else { s with table := T }

theorem State.withStorage_of_tv (s : State) (T : Vector Word 256) (h : s.tv = true) : s.withStorage T = s := by
  simp [State.withStorage, h]

theorem State.withStorage_of_not_tv (s : State) (T : Vector Word 256) (h : s.tv = false) :
    s.withStorage T = { s with table := T } := by
  simp [State.withStorage, h]

/-- A function of the state that does not read the storage does not see it exchanged. -/
theorem State.withStorage_eq {α : Type} (f : State → α) (T : Vector Word 256) (s : State)
    (h : f { s with table := T } = f s) : f (s.withStorage T) = f s := by
  cases htv : s.tv with
  | true => rw [s.withStorage_of_tv T htv]
  | false => rw [s.withStorage_of_not_tv T htv]; exact h

/-- An update of other fields commutes with the exchange of the storage. -/
theorem State.withStorage_comm (f : State → State) (T : Vector Word 256) (s : State) (htv : (f s).tv = s.tv)
    (h : f { s with table := T } = { f s with table := T }) : f (s.withStorage T) = (f s).withStorage T := by
  cases hs : s.tv with
  | true => rw [s.withStorage_of_tv T hs, (f s).withStorage_of_tv T (htv.trans hs)]
  | false => rw [s.withStorage_of_not_tv T hs, (f s).withStorage_of_not_tv T (htv.trans hs), h]

section
variable (T : Vector Word 256) (s : State)

@[simp] theorem State.withStorage_imgLen : (s.withStorage T).imgLen = s.imgLen := s.withStorage_eq State.imgLen T rfl
@[simp] theorem State.withStorage_fpBase : (s.withStorage T).fpBase = s.fpBase := s.withStorage_eq State.fpBase T rfl
@[simp] theorem State.withStorage_fpLen : (s.withStorage T).fpLen = s.fpLen := s.withStorage_eq State.fpLen T rfl
@[simp] theorem State.withStorage_image : (s.withStorage T).image = s.image := s.withStorage_eq State.image T rfl
@[simp] theorem State.withStorage_id : (s.withStorage T).id = s.id := s.withStorage_eq State.id T rfl
@[simp] theorem State.withStorage_cv : (s.withStorage T).cv = s.cv := s.withStorage_eq State.cv T rfl
@[simp] theorem State.withStorage_tv : (s.withStorage T).tv = s.tv := s.withStorage_eq State.tv T rfl
@[simp] theorem State.withStorage_busy : (s.withStorage T).busy = s.busy := s.withStorage_eq State.busy T rfl
@[simp] theorem State.withStorage_draws : (s.withStorage T).draws = s.draws := s.withStorage_eq State.draws T rfl
@[simp] theorem State.withStorage_moves : (s.withStorage T).moves = s.moves := s.withStorage_eq State.moves T rfl
@[simp] theorem State.withStorage_readings : (s.withStorage T).readings = s.readings :=
  s.withStorage_eq State.readings T rfl
@[simp] theorem State.withStorage_pending : (s.withStorage T).pending = s.pending :=
  s.withStorage_eq State.pending T rfl

/-- R125: a build leaves nothing of the storage. -/
@[simp] theorem State.withStorage_buildTable : (s.withStorage T).buildTable = s.buildTable :=
  s.withStorage_eq State.buildTable T rfl

/-- R126: so does the lazy build while TV = 0. -/
@[simp] theorem State.withStorage_ensureTable : (s.withStorage T).ensureTable = s.ensureTable := by
  cases htv : s.tv with
  | true => rw [s.withStorage_of_tv T htv]
  | false => rw [State.ensureTable_of_not_tv _ (by simp [htv]), s.ensureTable_of_not_tv htv, State.withStorage_buildTable]

@[simp] theorem State.withStorage_fprinted : (s.withStorage T).fprinted = s.fprinted := by simp [State.fprinted]

/-- R43: the TABLE window shows nothing of the storage while TV = 0. -/
@[simp] theorem State.withStorage_tableView (i : Fin 256) : (s.withStorage T).tableView i = s.tableView i := by
  cases htv : s.tv with
  | true => rw [s.withStorage_of_tv T htv]
  | false => simp [State.tableView, htv]

theorem State.withStorage_complete (e : ErrCode) (r : ResCode) :
    (s.withStorage T).complete e r = (s.complete e r).withStorage T :=
  s.withStorage_comm (·.complete e r) T rfl rfl

theorem State.withStorage_latchChecksum (c : Cic) :
    (s.withStorage T).latchChecksum c = (s.latchChecksum c).withStorage T :=
  s.withStorage_comm (·.latchChecksum c) T rfl rfl

theorem State.withStorage_headerFix : (s.withStorage T).headerFix = s.headerFix.withStorage T :=
  s.withStorage_comm State.headerFix T rfl rfl

theorem State.withStorage_logReading (x : Reading) (n : Nat) :
    (s.withStorage T).logReading x n = (s.logReading x n).withStorage T :=
  s.withStorage_comm (·.logReading x n) T rfl rfl

/-- R21: what a register holds does not show the storage while TV = 0. -/
theorem State.withStorage_registerValue (r : Reg) : (s.withStorage T).registerValue r = s.registerValue r := by
  cases r
  case table i => exact s.withStorage_tableView T i
  all_goals exact s.withStorage_eq (State.registerValue · _) T rfl

theorem State.withStorage_writeRegister (r : Reg) (v : Word) :
    (s.withStorage T).writeRegister r v = (s.writeRegister r v).withStorage T := by
  obtain ⟨-, -, htv, -⟩ := writeRegister_frame s r v
  refine s.withStorage_comm (·.writeRegister r v) T htv ?_
  cases r <;> simp only [State.writeRegister, State.unlessBusy] <;> (try split) <;> rfl

end

/-- With TV = 1 there is no storage left to exchange. -/
theorem next_withStorage_of_tv {o : Host.Outcome State Fault Refusal} (T : Vector Word 256) (ho : o = .next t)
    (htv : t.tv = true) : o = .next (t.withStorage T) := by
  rw [t.withStorage_of_tv T htv]; exact ho

/-- R44: a command does not see the storage while TV = 0, and a build leaves nothing of it. -/
theorem exec_withStorage {i : Instr} (T : Vector Word 256) (h : exec i s = .next t) :
    exec i (s.withStorage T) = .next (t.withStorage T) := by
  cases i with
  | nop => rw [exec_nop_inv h, ← State.withStorage_complete]; rfl
  | tblgen =>
    rw [exec_tblgen_inv h]
    exact next_withStorage_of_tv T (by rw [← s.withStorage_buildTable T]; rfl) rfl
  | fprint =>
    obtain ⟨hb, rfl⟩ | ⟨hb, rfl⟩ := exec_fprint_inv h
    · rw [exec_fprint_of_lt (by simpa using hb), State.withStorage_complete]
    · exact next_withStorage_of_tv T (by rw [exec_fprint_of_le (by simpa using hb), State.withStorage_fprinted])
        s.ensureTable_tv
  | classify =>
    obtain ⟨hb, rfl⟩ | ⟨hb, rfl⟩ := exec_classify_inv h
    · rw [exec_classify_of_lt (by simpa using hb), State.withStorage_complete]
    · exact next_withStorage_of_tv T (by rw [exec_classify_of_le (by simpa using hb), State.withStorage_ensureTable])
        s.ensureTable_tv
  | cksum =>
    obtain ⟨hb, rfl⟩ | ⟨hb, hid, rfl⟩ | ⟨hb, c, hid, rfl⟩ := exec_cksum_inv h
    · rw [exec_cksum_of_lt (by simpa using hb), State.withStorage_complete]
    · rw [exec_cksum_of_unknown (by simpa using hb) (by simpa using hid), State.withStorage_complete]
    · rw [exec_cksum_of_known (by simpa using hb) (by simpa using hid), State.withStorage_latchChecksum,
        State.withStorage_complete]
  | hdrfix =>
    obtain ⟨hb, rfl⟩ | ⟨hb, hcv, rfl⟩ | ⟨hb, hcv, hid, rfl⟩ | ⟨hb, hcv, ⟨c, hid⟩, rfl⟩ := exec_hdrfix_inv h
    · rw [exec_hdrfix_of_lt (by simpa using hb), State.withStorage_complete]
    · rw [exec_hdrfix_of_cv (by simpa using hb) (by simpa using hcv), State.withStorage_headerFix]
    · rw [exec_hdrfix_of_unknown (by simpa using hb) (by simpa using hcv) (by simpa using hid),
        State.withStorage_complete]
    · rw [exec_hdrfix_of_known (by simpa using hb) (by simpa using hcv) (by simpa using hid),
        State.withStorage_complete]
  | fix =>
    obtain ⟨hb, rfl⟩ | ⟨hb, hid, rfl⟩ | ⟨hb, c, hid, rfl⟩ := exec_fix_inv h
    · rw [exec_fix_of_lt (by simpa using hb), State.withStorage_complete]
    · exact next_withStorage_of_tv T
        (by rw [exec_fix_of_unknown (by simpa using hb) (by simpa using hid), State.withStorage_ensureTable])
        s.ensureTable_tv
    · exact next_withStorage_of_tv T
        (by rw [exec_fix_of_known (by simpa using hb) (by simpa using hid), State.withStorage_ensureTable])
        s.ensureTable_tv

/-- The engine's turn does not see the storage while TV = 0. -/
theorem engineMove_withStorage (T : Vector Word 256) (h : engineMove s = .next t) :
    engineMove (s.withStorage T) = .next (t.withStorage T) := by
  obtain ⟨hp, rfl⟩ | ⟨w, e, hp, hd, rfl⟩ | ⟨w, i, hp, hd, hx⟩ := engineMove_inv h
  · simp [engineMove, hp]
  · simp [engineMove, hp, hd, execIllegal, State.withStorage_complete]
  · simp [engineMove, hp, hd, exec_withStorage T hx]

/-- The state after the pending command differs in the storage only, as the state before does. -/
theorem State.withStorage_afterPending (T : Vector Word 256) (s : State) :
    (s.withStorage T).afterPending = s.afterPending.withStorage T := by
  have h := engineMove_withStorage T (engineMove_afterPending s)
  rw [engineMove_afterPending] at h
  exact Host.Outcome.next.inj h

/-- R46: a register read while BUSY = 1 does not show the storage while TV = 0. -/
theorem State.withStorage_busyValue (T : Vector Word 256) (s : State) (r : Reg) :
    (s.withStorage T).busyValue r = s.busyValue r := by
  cases r <;> simp [State.busyValue, State.withStorage_registerValue, State.withStorage_afterPending]

theorem State.withStorage_readRegister (T : Vector Word 256) (s : State) (idx : BitVec 10) :
    (s.withStorage T).readRegister idx = (s.readRegister idx).withStorage T := by
  unfold State.readRegister
  rw [State.withStorage_busyValue, State.withStorage_registerValue, State.withStorage_busy]
  split <;> exact State.withStorage_logReading ..

theorem State.withStorage_hostReadByte (T : Vector Word 256) (s : State) (a : Word) :
    (s.withStorage T).hostReadByte a = (s.hostReadByte a).withStorage T := by
  unfold State.hostReadByte
  rw [State.withStorage_afterPending, State.withStorage_busy, State.withStorage_image, State.withStorage_image,
    State.withStorage_draws]
  split <;> exact State.withStorage_logReading ..

/-- R230, R231: a reset event leaves nothing of the storage. -/
theorem State.withStorage_resetEvent (T : Vector Word 256) (s : State) :
    (s.withStorage T).resetEvent = s.resetEvent := by
  simp [State.resetEvent, State.withStorage_afterPending]

/-- No move but a reset event sees the storage while TV = 0. -/
theorem makeMove_withStorage {m : Move} (T : Vector Word 256) (hm : m ≠ .reset) (h : makeMove m s = .next t) :
    makeMove m (s.withStorage T) = .next (t.withStorage T) := by
  cases m with
  | regWrite idx v =>
    obtain rfl := Host.Outcome.next.inj h
    exact congrArg _ (s.withStorage_writeRegister T _ v)
  | regRead idx =>
    obtain rfl := Host.Outcome.next.inj h
    exact congrArg _ (State.withStorage_readRegister T s idx)
  | imgWrite a b =>
    simp only [makeMove, hostWriteByte] at h ⊢
    split at h
    · exact nomatch h
    · next hrace =>
      obtain rfl := Host.Outcome.next.inj h
      rw [if_neg (by simpa using hrace)]
      exact congrArg _ (s.withStorage_comm (fun u => { u with image := writeByte u.image a.toNat b }) T rfl rfl)
  | imgRead a =>
    obtain rfl := Host.Outcome.next.inj h
    exact congrArg _ (State.withStorage_hostReadByte T s a)
  | reset => exact absurd rfl hm
  | engine => exact engineMove_withStorage T h

/-- The state with another storage, whose difference is gone once TV = 1. -/
theorem State.withStorage_eq_table (T : Vector Word 256) (s : State) :
    ∃ T', s.withStorage T = { s with table := T' } ∧ (s.tv = true → T' = s.table) := by
  rcases Bool.eq_false_or_eq_true s.tv with htv | htv
  · exact ⟨s.table, s.withStorage_of_tv T htv, fun _ => rfl⟩
  · exact ⟨T, s.withStorage_of_not_tv T htv, fun h => absurd h (by simp [htv])⟩

/-- A step that is no reset event does not see the storage while TV = 0. -/
theorem step_withStorage (T : Vector Word 256) (hreset : ∀ rest, s.moves ≠ .reset :: rest) (h : step s = .next t) :
    step (s.withStorage T) = .next (t.withStorage T) := by
  cases hm : s.moves with
  | nil =>
    rw [step_of_moves_nil hm] at h
    rw [step_of_moves_nil (by simpa using hm)]
    exact engineMove_withStorage T h
  | cons m rest =>
    rw [step_of_moves_cons hm] at h
    rw [step_of_moves_cons (by simpa using hm), s.withStorage_comm (fun u => { u with moves := rest }) T rfl rfl]
    exact makeMove_withStorage T (fun e => hreset rest (e ▸ hm)) h

end Machine

open Machine

/-- Settles O59: a reset event leaves nothing of the storage (`withStorage_resetEvent`), and every other step commutes
with its exchange while TV = 0 (`step_withStorage`). -/
theorem unbuiltTableIsUnobservable : Obligations.UnbuiltTableIsUnobservable := by
  intro s t T htv h
  by_cases hreset : ∃ rest, s.moves = .reset :: rest
  · obtain ⟨rest, hm⟩ := hreset
    rw [step_of_moves_cons hm] at h
    rw [step_of_moves_cons (s := { s with table := T }) hm]
    have hrest := State.withStorage_of_not_tv { s with moves := rest } T htv
    exact ⟨t.table, (congrArg Host.Outcome.next (hrest ▸ State.withStorage_resetEvent T _)).trans h, fun _ => rfl⟩
  · obtain ⟨T', hT, hbuilt⟩ := t.withStorage_eq_table T
    rw [← s.withStorage_of_not_tv T htv]
    exact ⟨T', by rw [step_withStorage T (not_exists.1 hreset) h, hT], hbuilt⟩

end Sys2Proof
end

section
/-! Proofs of family 10_state.md, third part: image bytes at or beyond IMG_LEN are neither read nor written (O58). Two
images that agree below IMG_LEN give every command the same registers, and the header patch the same new bytes. -/

namespace Sys2Proof

namespace Machine

variable {s t : State} {m m' : Image}

/-! ### Writes to two images -/

/-- Two images in canonical form agree on the byte at `b`. -/
structure AgreeAt (m m' : Image) (b : Nat) : Prop where
  left_wf : Memory.wf m = true
  right_wf : Memory.wf m' = true
  readByte_eq : readByte m b = readByte m' b

/-- The same byte write keeps the agreement. -/
theorem AgreeAt.writeByte {b : Nat} (h : AgreeAt m m' b) {a : Nat} (ha : a < 2 ^ 32) (x : Byte) :
    AgreeAt (writeByte m a x) (writeByte m' a x) b := by
  obtain ⟨hm, hm', heq⟩ := h
  refine ⟨wf_writeByte _ _ _ ha hm, wf_writeByte _ _ _ ha hm', ?_⟩
  by_cases hb : b = a
  · subst hb; rw [readByte_writeByte_same _ _ _ hm, readByte_writeByte_same _ _ _ hm']
  · rw [readByte_writeByte_ne _ _ hb, readByte_writeByte_ne _ _ hb, heq]

/-- The same word write keeps the agreement. -/
theorem AgreeAt.writeWord {b : Nat} (h : AgreeAt m m' b) {a : Nat} (ha : a + 3 < 2 ^ 32) (v : Word) :
    AgreeAt (writeWord m a v) (writeWord m' a v) b :=
  (((h.writeByte (by omega) _).writeByte (by omega) _).writeByte (by omega) _).writeByte ha _

/-- The same word write under the same condition keeps the agreement. -/
theorem AgreeAt.writeWord_unless {b : Nat} (h : AgreeAt m m' b) {a : Nat} (ha : a + 3 < 2 ^ 32) (p : Prop) [Decidable p]
    (v : Word) : AgreeAt (if p then m else Machine.writeWord m a v) (if p then m' else Machine.writeWord m' a v) b := by
  split
  · exact h
  · exact h.writeWord ha v

/-- The same header patch keeps the agreement, if the stored words are the same (R182). -/
theorem AgreeAt.headerImage {b : Nat} (h : AgreeAt m m' b) (h0 : storedWord0 m = storedWord0 m')
    (h1 : storedWord1 m = storedWord1 m') (k0 k1 : Word) : AgreeAt (headerImage m k0 k1) (headerImage m' k0 k1) b := by
  unfold Machine.headerImage
  rw [h0, h1]
  exact (h.writeWord_unless (by decide) _ k0).writeWord_unless (by decide) _ k1

/-! ### A command on two images -/

/-- The state with the image `m` in place of its own. -/
def State.withImage (s : State) (m : Image) : State := { s with image := m }

section
variable (s : State) (m : Image)

@[simp] theorem State.withImage_imgLen : (s.withImage m).imgLen = s.imgLen := rfl
@[simp] theorem State.withImage_fpBase : (s.withImage m).fpBase = s.fpBase := rfl
@[simp] theorem State.withImage_fpLen : (s.withImage m).fpLen = s.fpLen := rfl
@[simp] theorem State.withImage_id : (s.withImage m).id = s.id := rfl
@[simp] theorem State.withImage_cv : (s.withImage m).cv = s.cv := rfl
@[simp] theorem State.withImage_image : (s.withImage m).image = m := rfl

theorem State.withImage_complete (e : ErrCode) (r : ResCode) :
    (s.withImage m).complete e r = (s.complete e r).withImage m := rfl

theorem State.withImage_ensureTable : (s.withImage m).ensureTable = s.ensureTable.withImage m := by
  rcases Bool.eq_false_or_eq_true s.tv with htv | htv
  · rw [s.ensureTable_of_tv htv, (s.withImage m).ensureTable_of_tv htv]
  · rw [s.ensureTable_of_not_tv htv, (s.withImage m).ensureTable_of_not_tv htv]; rfl

end

/-- The image `m` agrees with the state's below IMG_LEN. -/
def State.AgreesBelow (s : State) (m : Image) : Prop := ∀ a, a < s.imgLen.toNat → readByte m a = readByte s.image a

/-- R127: FPRINT sees only its window. -/
theorem State.withImage_fprinted (h : s.AgreesBelow m) (hb : s.fpBase.toNat + s.fpLen.toNat ≤ s.imgLen.toNat) :
    (s.withImage m).fprinted = s.fprinted.withImage m := by
  have hfp : fingerprint m s.fpBase.toNat s.fpLen.toNat = fingerprint s.image s.fpBase.toNat s.fpLen.toNat :=
    fingerprint_congr _ _ _ _ fun a _ ha => h a (by omega)
  unfold State.fprinted
  rw [State.withImage_ensureTable, State.withImage_image, State.withImage_fpBase, State.withImage_fpLen, hfp]
  rfl

/-- R141: the boot fingerprint is that of the bytes below IMG_LEN. -/
theorem State.AgreesBelow.bootFingerprint (h : s.AgreesBelow m) (hb : Config.bcOff + Config.bcLen ≤ s.imgLen.toNat) :
    bootFingerprint m = bootFingerprint s.image :=
  bootFingerprint_congr _ _ fun a _ ha => h a (by omega)

/-- R156: the checksum is that of the bytes below IMG_LEN. -/
theorem State.AgreesBelow.checksumAcc (h : s.AgreesBelow m) (hb : 0x101000 ≤ s.imgLen.toNat) (c : Cic) :
    checksumAcc m c = checksumAcc s.image c :=
  checksumAcc_congr _ _ _ (fun a _ ha => h a (by omega)) fun a _ ha => h a (by omega)

/-- R180: the stored words are those of the bytes below IMG_LEN. -/
theorem State.AgreesBelow.storedWords (h : s.AgreesBelow m) (hb : 0x18 ≤ s.imgLen.toNat) :
    storedWord0 m = storedWord0 s.image ∧ storedWord1 m = storedWord1 s.image := by
  refine ⟨readWord_congr _ _ _ fun a _ ha => h a ?_, readWord_congr _ _ _ fun a _ ha => h a ?_⟩ <;>
    simp only [Config.hdr0Off, Config.hdr1Off] at ha <;> omega

theorem State.withImage_classifyImage (h : bootFingerprint m = bootFingerprint s.image) :
    (s.withImage m).classifyImage = s.classifyImage.withImage m := by
  simp only [State.classifyImage, State.withImage, h]

theorem State.withImage_latchChecksum {c : Cic} (h : checksumAcc m c = checksumAcc s.image c) :
    (s.withImage m).latchChecksum c = (s.latchChecksum c).withImage m := by
  simp only [State.latchChecksum, State.withImage, h]

theorem State.withImage_headerFix (h0 : storedWord0 m = storedWord0 s.image)
    (h1 : storedWord1 m = storedWord1 s.image) :
    (s.withImage m).headerFix = s.headerFix.withImage (headerImage m s.ck0 s.ck1) := by
  simp only [State.headerFix, State.withImage, State.complete, h0, h1]

/-- R37, R79: with another image that agrees below IMG_LEN a command leaves the same registers; the image stays, or the
same pair is patched into both. -/
theorem exec_withImage {i : Instr} (hag : s.AgreesBelow m) (h : exec i s = .next t) :
    (exec i (s.withImage m) = .next (t.withImage m) ∧ t.image = s.image) ∨
    (0x18 ≤ s.imgLen.toNat ∧ ∃ k0 k1, exec i (s.withImage m) = .next (t.withImage (headerImage m k0 k1)) ∧
      t.image = headerImage s.image k0 k1) := by
  cases i with
  | nop => left; rw [exec_nop_inv h]; exact ⟨rfl, rfl⟩
  | tblgen => left; rw [exec_tblgen_inv h]; exact ⟨rfl, rfl⟩
  | fprint =>
    left
    obtain ⟨hb, rfl⟩ | ⟨hb, rfl⟩ := exec_fprint_inv h
    · exact ⟨exec_fprint_of_lt hb, rfl⟩
    · exact ⟨by rw [exec_fprint_of_le (s := s.withImage m) hb, State.withImage_fprinted hag hb], s.ensureTable_image⟩
  | classify =>
    left
    obtain ⟨hb, rfl⟩ | ⟨hb, rfl⟩ := exec_classify_inv h
    · exact ⟨exec_classify_of_lt hb, rfl⟩
    · have hfp := hag.bootFingerprint hb
      rw [exec_classify_of_le (s := s.withImage m) hb, State.withImage_ensureTable,
        State.withImage_classifyImage (by simpa using hfp)]
      exact ⟨rfl, s.ensureTable_image⟩
  | cksum =>
    left
    obtain ⟨hb, rfl⟩ | ⟨hb, hid, rfl⟩ | ⟨hb, c, hid, rfl⟩ := exec_cksum_inv h
    · exact ⟨exec_cksum_of_lt hb, rfl⟩
    · exact ⟨exec_cksum_of_unknown hb hid, rfl⟩
    · rw [exec_cksum_of_known (s := s.withImage m) hb hid, State.withImage_latchChecksum (hag.checksumAcc hb c)]
      exact ⟨rfl, rfl⟩
  | hdrfix =>
    obtain ⟨hb, rfl⟩ | ⟨hb, hcv, rfl⟩ | ⟨hb, hcv, hid, rfl⟩ | ⟨hb, hcv, ⟨c, hid⟩, rfl⟩ := exec_hdrfix_inv h
    · exact .inl ⟨exec_hdrfix_of_lt hb, rfl⟩
    · obtain ⟨h0, h1⟩ := hag.storedWords hb
      refine .inr ⟨hb, s.ck0, s.ck1, ?_, rfl⟩
      rw [exec_hdrfix_of_cv (s := s.withImage m) hb hcv, State.withImage_headerFix h0 h1]
    · exact .inl ⟨exec_hdrfix_of_unknown hb hcv hid, rfl⟩
    · exact .inl ⟨exec_hdrfix_of_known hb hcv hid, rfl⟩
  | fix =>
    obtain ⟨hb, rfl⟩ | ⟨hb, hid, rfl⟩ | ⟨hb, c, hid, rfl⟩ := exec_fix_inv h
    · exact .inl ⟨exec_fix_of_lt hb, rfl⟩
    · have hfp := hag.bootFingerprint (by have := bootWindow_bounds; omega)
      rw [exec_fix_of_unknown (s := s.withImage m) hb (hfp ▸ hid), State.withImage_ensureTable,
        State.withImage_classifyImage (by simpa using hfp)]
      exact .inl ⟨rfl, s.ensureTable_image⟩
    · have hfp := hag.bootFingerprint (by have := bootWindow_bounds; omega)
      have hacc := hag.checksumAcc hb c
      obtain ⟨h0, h1⟩ := hag.storedWords (by omega)
      refine .inr ⟨by omega, (finalize (checksumAcc s.image c) c).1, (finalize (checksumAcc s.image c) c).2, ?_, ?_⟩
      · rw [exec_fix_of_known (s := s.withImage m) hb (hfp ▸ hid), State.withImage_ensureTable,
          State.withImage_classifyImage (by simpa using hfp), State.withImage_latchChecksum (by simpa using hacc),
          State.withImage_headerFix (by simpa using h0) (by simpa using h1)]
        simp
      · simp

end Machine

open Machine

/-- Settles O58: the registers by `exec_withImage`, the image bytes by what a header patch does to two images. -/
theorem bytesBeyondImgLenDoNotMatter : Obligations.BytesBeyondImgLenDoNotMatter := by
  intro i s t m hs hm hag h
  obtain ⟨hx, ht⟩ | ⟨hb, k0, k1, hx, ht⟩ := exec_withImage (m := m) hag h
  · exact ⟨m, hx, fun a ha => by rw [ht, hag a ha], fun a _ => ⟨rfl, by rw [ht]⟩⟩
  · obtain ⟨h0, h1⟩ := State.AgreesBelow.storedWords hag hb
    refine ⟨headerImage m k0 k1, hx, fun a ha => ?_, fun a ha => ?_⟩
    · rw [ht]
      exact (AgreeAt.headerImage ⟨hm, hs, hag a ha⟩ h0 h1 k0 k1).readByte_eq
    · rw [ht]
      exact ⟨readByte_headerImage_outside _ _ _ _ (by omega), readByte_headerImage_outside _ _ _ _ (by omega)⟩

end Sys2Proof
end

section
/-! Proofs of family 10_state.md, fourth part: the register frame of the commands (O31), the engine's turn (O4), and the
register port: what a host write does (O37 to O41), what a read returns (O42, O43), STATUS, reset and the interrupt
(O36, O44, O47). -/

namespace Sys2Proof

open Machine

/-! ### The commands -/

/-- Settles O31, command by command from the inversion lemmas. -/
theorem registerFrameOfEveryCommand : Obligations.RegisterFrameOfEveryCommand := by
  intro i s t h
  cases i with
  | nop => simp [exec_nop_inv h]
  | tblgen => simp [exec_tblgen_inv h]
  | fprint => obtain ⟨-, rfl⟩ | ⟨-, rfl⟩ := exec_fprint_inv h <;> simp [State.fprinted]
  | classify => obtain ⟨-, rfl⟩ | ⟨-, rfl⟩ := exec_classify_inv h <;> simp
  | cksum => obtain ⟨-, rfl⟩ | ⟨-, -, rfl⟩ | ⟨-, c, -, rfl⟩ := exec_cksum_inv h <;> simp
  | hdrfix => obtain ⟨-, rfl⟩ | ⟨-, -, rfl⟩ | ⟨-, -, -, rfl⟩ | ⟨-, -, -, rfl⟩ := exec_hdrfix_inv h <;> simp
  | fix => obtain ⟨-, rfl⟩ | ⟨-, -, rfl⟩ | ⟨-, c, -, rfl⟩ := exec_fix_inv h <;> simp

/-- R45: with a legal word pending the engine's turn is its command. -/
theorem Machine.engineMove_of_decode {s : State} {w : Word} {i : Instr} (hp : s.pending = some w)
    (hd : decode w = .ok i) : engineMove s = exec i s := by
  simp [engineMove, hp, hd]

/-- Settles O4: by the list of moves the engine moves, and it runs the pending command. -/
theorem stepRunsTheDecodedCommand : Obligations.StepRunsTheDecodedCommand := by
  intro s w i hp hd
  refine ⟨fun hm => ?_, fun rest hm => ?_⟩
  · rw [step_of_moves_nil hm, engineMove_of_decode hp hd]
  · rw [step_of_moves_cons hm]
    exact engineMove_of_decode (s := { s with moves := rest }) hp hd

/-! ### Register writes -/

/-- A host register write as a step (R21). -/
theorem Machine.step_regWrite {s : State} {idx : BitVec 10} {v : Word} {rest : List Move}
    (hm : s.moves = .regWrite idx v :: rest) :
    step s = .next (State.writeRegister { s with moves := rest } (regAt idx) v) := step_of_moves_cons hm

/-- A write to a guarded register takes effect while BUSY = 0. -/
theorem Machine.step_regWrite_idle {s u : State} {idx : BitVec 10} {r : Reg} {v : Word} {rest : List Move}
    (hm : s.moves = .regWrite idx v :: rest) (hr : regAt idx = r) (hb : s.busy = false)
    (hu : State.writeRegister { s with moves := rest } r v = State.unlessBusy { s with moves := rest } u) :
    step s = .next u := by
  rw [step_regWrite hm, hr, hu]
  exact congrArg _ (State.unlessBusy_idle { s with moves := rest } u hb)

/-- Settles O37: at most the two flags change, each by its own bit. -/
theorem statusWriteOneToClear : Obligations.StatusWriteOneToClear := by
  intro s v rest hm
  rw [step_regWrite hm, show regAt 1 = .status from regAt_1, State.writeRegister, State.writeStatus]
  cases v.getLsbD 1 <;> cases v.getLsbD 8 <;> simp

/-- R35: the code stored for a three-bit code, UNKNOWN's for 6 and 7. -/
theorem Machine.Identity.code_ofCode (c : BitVec 3) :
    (Identity.ofCode c).code = if c.toNat ≤ 5 then c else 0#3 := by
  revert c; decide

/-- Settles O39, register by register: CTRL is not guarded, the four others are. -/
theorem writableRegisters : Obligations.WritableRegisters := by
  intro s v rest
  refine ⟨fun hm => ?_, fun hm hb => ⟨_, ?_, Identity.code_ofCode _⟩, fun hm hb => ?_, fun hm hb => ?_, fun hm hb => ?_⟩
  · rw [step_regWrite hm, show regAt 2 = .ctrl from regAt_2]; rfl
  · exact step_regWrite_idle hm regAt_3 hb rfl
  · exact step_regWrite_idle hm regAt_4 hb rfl
  · exact step_regWrite_idle hm regAt_5 hb rfl
  · exact step_regWrite_idle hm regAt_6 hb rfl

/-- R25: the five guarded registers turn a write away while BUSY = 1. -/
theorem Machine.writeRegister_guarded {s : State} {idx : BitVec 10} {v : Word} (hb : s.busy = true)
    (hidx : idx ∈ [0#10, 3#10, 4#10, 5#10, 6#10]) : s.writeRegister (regAt idx) v = { s with ovr := true } := by
  simp only [List.mem_cons, List.not_mem_nil, or_false] at hidx
  rcases hidx with rfl | rfl | rfl | rfl | rfl <;> simp [State.writeRegister, State.unlessBusy_busy _ _ hb]

/-- Settles O40: the write is turned away (`writeRegister_guarded`). -/
theorem busyWritesOnlySetOvr : Obligations.BusyWritesOnlySetOvr := by
  intro s idx v rest hm hb hidx
  rw [step_regWrite hm]
  exact congrArg _ (writeRegister_guarded (s := { s with moves := rest }) hb hidx)

/-- Settles O38: CMD has the value 0, BUSY or not; a write is `accept`, or is turned away as O40 says. -/
theorem commandRegisterAccess : Obligations.CommandRegisterAccess := by
  intro s rest
  refine ⟨fun hm => ?_, fun w hm hb => step_regWrite_idle hm regAt_0 hb rfl,
    fun w hm hb => busyWritesOnlySetOvr s 0 w rest hm hb (by decide)⟩
  rw [step_of_moves_cons hm]
  refine ⟨_, rfl, ?_⟩
  rw [readRegister_eq, show regAt 0 = .cmd from regAt_0]
  simp [State.busyValue, State.registerValue]

/-- Settles O41: `writeRegister_readOnly`, at the step. -/
theorem readOnlyAndReservedWritesAreIgnored : Obligations.ReadOnlyAndReservedWritesAreIgnored := by
  intro s idx v rest hm hidx
  rw [step_regWrite hm, writeRegister_readOnly _ _ _ hidx]

/-! ### Register reads -/

/-- R46: while BUSY = 0 a read takes no draw. -/
theorem Machine.readRegister_of_idle {s : State} {idx : BitVec 10} (hb : s.busy = false) :
    s.readRegister idx = s.logReading (.reg idx (s.registerValue (regAt idx))) 0 := by
  simp [State.readRegister, hb]

/-- R46: while BUSY = 1 a read takes one draw. -/
theorem Machine.readRegister_of_busy {s : State} {idx : BitVec 10} (hb : s.busy = true) :
    s.readRegister idx = s.logReading (.reg idx (s.busyValue (regAt idx))) 1 := by
  simp [State.readRegister, hb]

/-- R33: CTRL reads as IE in bit 0. -/
theorem Machine.State.ctrlWord_eq (s : State) : s.ctrlWord = if s.ie then 1 else 0 := by
  unfold State.ctrlWord
  cases s.ie <;> decide

/-- R34: ID reads as its code, zero-extended. -/
theorem Machine.State.idWord_eq (s : State) : s.idWord = s.id.code.setWidth 32 := by
  unfold State.idWord
  generalize s.id.code = c
  revert c; decide

/-- Settles O42: the value is `registerValue` of the register the map names. -/
theorem idleReadsFollowTheRegisterMap : Obligations.IdleReadsFollowTheRegisterMap := by
  intro s idx rest hm hb
  refine ⟨State.registerValue { s with moves := rest } (regAt idx), ?_, ?_⟩
  · rw [step_of_moves_cons hm]
    exact congrArg _ (readRegister_of_idle (s := { s with moves := rest }) hb)
  · refine ⟨?_, ?_, ?_, ?_, ?_, ?_, ?_, ?_, ?_, ?_, ?_, ?_, ?_, ?_, ?_, ?_, ?_, ?_, fun h => ?_, fun i h => ?_⟩
    case refine_19 => rw [regAt_reserved idx h]; rfl
    case refine_20 => rw [regAt_table idx i h]; rfl
    case refine_3 => rintro rfl; exact State.ctrlWord_eq _
    case refine_4 => rintro rfl; exact State.idWord_eq _
    all_goals rintro rfl; rfl

/-- R126, R44: the state after the pending command keeps TV and the table, or has TV = 1 and the built table because
that command builds it. -/
theorem Machine.State.afterPending_table (s : State) :
    (s.afterPending.tv = s.tv ∧ s.afterPending.table = s.table) ∨
    ((s.afterPending.tv = true ∧ s.afterPending.table = builtTable) ∧ Stated.buildsTable s) := by
  obtain ⟨-, h⟩ | ⟨w, e, -, -, h⟩ | ⟨w, i, hp, hd, hx⟩ := engineMove_inv (engineMove_afterPending s)
  · exact .inl (by simp [h])
  · exact .inl (by simp [h])
  · rw [eq_encode_of_decode hd] at hp
    exact (exec_table hx).imp_right fun ⟨hbuilt, hb⟩ => ⟨hbuilt, hb hp⟩

/-- R43: with TV = 1 and the built table the TABLE window shows TableEntry(i). -/
theorem Machine.State.tableView_of_built {s : State} (htv : s.tv = true) (htable : s.table = builtTable) (i : Fin 256) :
    s.tableView i = tableEntry (BitVec.ofNat 8 i.val) := by
  rw [State.tableView, if_pos htv, htable, builtTable_getElem]

/-- A draw between two values has a property that both have. -/
theorem Machine.drawBetween_of_both {α : Type} {P : α → Prop} (n : Nat) {old new : α} (hold : P old) (hnew : P new) :
    P (drawBetween n old new) := by
  unfold drawBetween
  split
  · exact hnew
  · exact hold

/-- R46: a TABLE read while BUSY = 1 and TV = 0 is the gated 0, or the new entry of a build. -/
theorem Machine.State.busyValue_table_of_not_tv {s : State} (htv : s.tv = false) (i : Fin 256) :
    s.busyValue (.table i) = 0 ∨
      Stated.buildsTable s ∧ s.busyValue (.table i) = tableEntry (BitVec.ofNat 8 i.val) := by
  refine drawBetween_of_both (P := fun v => v = 0 ∨ Stated.buildsTable s ∧ v = tableEntry (BitVec.ofNat 8 i.val)) s.draws
    (.inl (by simp [State.tableView, htv])) ?_
  obtain ⟨hkeep, -⟩ | ⟨⟨htv', htable⟩, hbuilds⟩ := s.afterPending_table
  · exact .inl (by simp [State.tableView, hkeep, htv])
  · exact .inr ⟨hbuilds, State.tableView_of_built htv' htable i⟩

/-- R46: with the built table a TABLE read while BUSY = 1 is the entry. -/
theorem Machine.State.busyValue_table_of_built {s : State} (htv : s.tv = true) (htable : s.table = builtTable)
    (i : Fin 256) : s.busyValue (.table i) = tableEntry (BitVec.ofNat 8 i.val) := by
  refine drawBetween_of_both (P := (· = tableEntry (BitVec.ofNat 8 i.val))) s.draws
    (State.tableView_of_built htv htable i) ?_
  obtain ⟨htv', htable'⟩ | ⟨⟨htv', htable'⟩, -⟩ := s.afterPending_table
  · exact State.tableView_of_built (htv'.trans htv) (htable'.trans htable) i
  · exact State.tableView_of_built htv' htable' i

/-- R46: a read of ID or of a result register while BUSY = 1 is the next free draw. -/
theorem Machine.State.busyValue_result (s : State) {idx : BitVec 10} (h : idx = 3 ∨ 7 ≤ idx.toNat ∧ idx.toNat ≤ 17) :
    s.busyValue (regAt idx) = Config.freeWord s.draws := by
  obtain rfl | ⟨h1, h2⟩ := h
  · rw [show regAt 3 = .id from regAt_3]; rfl
  · rcases idx_cases_result idx h1 h2 with rfl | rfl | rfl | rfl | rfl | rfl | rfl | rfl | rfl | rfl | rfl <;>
      simp [State.busyValue]

/-- Settles O43: the value is `busyValue` of the register the map names. -/
theorem busyReads : Obligations.BusyReads := by
  intro s idx rest hm hb
  refine ⟨State.busyValue { s with moves := rest } (regAt idx), ?_, State.busyValue_result _, ?_⟩
  · rw [step_of_moves_cons hm]
    exact congrArg _ (readRegister_of_busy (s := { s with moves := rest }) hb)
  · refine ⟨?_, ?_, ?_, ?_, ?_, ?_, fun h => ?_, fun i h => ?_⟩
    case refine_7 => rw [regAt_reserved idx h]; rfl
    case refine_8 =>
      rw [regAt_table idx i h]
      exact ⟨fun htv => State.busyValue_table_of_not_tv (s := { s with moves := rest }) htv i,
        fun htv htable => State.busyValue_table_of_built (s := { s with moves := rest }) htv htable i⟩
    case refine_3 => rintro rfl; exact State.ctrlWord_eq _
    all_goals rintro rfl; rfl

/-! ### STATUS, reset and the interrupt -/

/-- R31: the nine flags of STATUS, peeled off the concatenation from bit 0 up. -/
theorem Machine.State.statusWord_flags (s : State) :
    s.statusWord.getLsbD 0 = s.busy ∧ s.statusWord.getLsbD 1 = s.done ∧ s.statusWord.getLsbD 2 = s.tv ∧
    s.statusWord.getLsbD 3 = s.cv ∧ s.statusWord.getLsbD 4 = s.m0 ∧ s.statusWord.getLsbD 5 = s.m1 ∧
    s.statusWord.getLsbD 6 = s.w0 ∧ s.statusWord.getLsbD 7 = s.w1 ∧ s.statusWord.getLsbD 8 = s.ovr := by
  refine ⟨?_, ?_, ?_, ?_, ?_, ?_, ?_, ?_, ?_⟩ <;> unfold State.statusWord
  all_goals (repeat rw [BitVec.getLsbD_append]); simp

/-- R31: the fields of STATUS above its nine flags. -/
theorem Machine.State.statusWord_fields (s : State) :
    s.statusWord.extractLsb' 9 3 = 0#3 ∧ s.statusWord.extractLsb' 12 4 = s.err.code ∧
    s.statusWord.extractLsb' 16 2 = s.res.code ∧ s.statusWord.extractLsb' 18 14 = 0#14 := by
  refine ⟨?_, ?_, ?_, ?_⟩ <;> unfold State.statusWord <;> iterate 9 rw [BitVec.extractLsb'_append_eq_of_le (by decide)]
  · exact BitVec.extractLsb'_append_eq_right
  · rw [BitVec.extractLsb'_append_eq_of_le (by decide)]
    exact BitVec.extractLsb'_append_eq_right
  · iterate 2 rw [BitVec.extractLsb'_append_eq_of_le (by decide)]
    exact BitVec.extractLsb'_append_eq_right
  · iterate 3 rw [BitVec.extractLsb'_append_eq_of_le (by decide)]
    exact BitVec.extractLsb'_eq_self

/-- Settles O36: the flags, the fields, and the codes of ERR and RES. -/
theorem statusWordLayout : Obligations.StatusWordLayout := by
  refine ⟨fun s => ?_, by decide⟩
  obtain ⟨h0, h1, h2, h3, h4, h5, h6, h7, h8⟩ := s.statusWord_flags
  exact ⟨h0, h1, h2, h3, h4, h5, h6, h7, h8, s.statusWord_fields⟩

/-- Settles O47: STATUS, CTRL and ID are computed, the rest are fields of `State.reset`. -/
theorem resetValues : Obligations.ResetValues := by
  refine ⟨by decide, by decide, by decide, rfl, rfl, rfl, rfl, rfl, rfl, rfl, rfl, rfl, rfl, rfl, fun i => ?_⟩
  rfl

/-- R200, R104: the completion of a pending word, legal or not, sets DONE and keeps CTRL.IE. -/
theorem Machine.engineMove_completes {s t : State} {w : Word} (hp : s.pending = some w) (h : engineMove s = .next t) :
    t.done = true ∧ t.ie = s.ie := by
  obtain ⟨hnone, -⟩ | ⟨w, e, -, -, rfl⟩ | ⟨w, i, -, -, hx⟩ := engineMove_inv h
  · exact nomatch hnone.symm.trans hp
  · exact ⟨rfl, rfl⟩
  · obtain ⟨-, -, hdone⟩ := exec_completes hx
    obtain ⟨⟨-, hie, -⟩, -⟩ := registerFrameOfEveryCommand i s t hx
    exact ⟨hdone, hie⟩

/-- Settles O44: completions by `engineMove_completes`, the two clears by what they leave in DONE. -/
theorem interruptOutput : Obligations.InterruptOutput := by
  refine ⟨fun _ => rfl, rfl, fun s t w hp h => ?_, fun _ _ => rfl, fun s t v rest hm hv h => ?_⟩
  · obtain ⟨hdone, hie⟩ := engineMove_completes hp h
    exact ⟨by simp [State.irq, hdone, hie], hdone⟩
  · rw [step_regWrite hm, show regAt 1 = .status from regAt_1] at h
    obtain rfl := Host.Outcome.next.inj h
    simp [State.irq, State.writeRegister, hv]

end Sys2Proof
end

section
/-! Proofs of family 20_memory.md: the image words (O60), what a command stores (O29, O30), the host's image accesses
(O45, O46), and that the race of R86 is the one stop of the machine (O6). `exec_keeps_image_or_compares` says once
which state a command that stores compares in; `hostWriteByte_race` and `hostWriteByte_noRace` say once what a host image
write does. -/

namespace Sys2Proof

namespace Machine

variable {s t : State}

/-! ### What a command stores -/

/-- R182, R190: a command leaves the image as it is, or it ends with the compare-and-patch step on that image. -/
theorem exec_keeps_image_or_compares {i : Instr} (h : exec i s = .next t) :
    t.image = s.image ∨ ∃ u : State, u.image = s.image ∧ t = u.headerFix := by
  obtain ht | ⟨rfl | rfl, -⟩ := exec_image h
  · exact .inl ht
  · obtain ⟨-, rfl⟩ | ⟨-, -, rfl⟩ | ⟨-, -, -, rfl⟩ | ⟨-, -, -, rfl⟩ := exec_hdrfix_inv h
    case inr.inl => exact .inr ⟨s, rfl, rfl⟩
    all_goals left; simp
  · obtain ⟨-, rfl⟩ | ⟨-, -, rfl⟩ | ⟨-, c, -, rfl⟩ := exec_fix_inv h
    case inr.inr => exact .inr ⟨s.ensureTable.classifyImage.latchChecksum c, by simp, rfl⟩
    all_goals left; simp

/-- R182: the compare-and-patch step changes a byte only in a word that it reports written. -/
theorem readByte_headerFix {a : Nat} (h0 : ¬(s.headerFix.w0 = true ∧ 0x10 ≤ a ∧ a < 0x14))
    (h1 : ¬(s.headerFix.w1 = true ∧ 0x14 ≤ a ∧ a < 0x18)) :
    readByte s.headerFix.image a = readByte s.image a := by
  simp only [State.headerFix_w0, State.headerFix_w1, Bool.not_eq_true', decide_eq_false_iff_not] at h0 h1
  exact readByte_headerImage _ _ _ a
    (Decidable.or_iff_not_imp_left.2 fun hne => by have := not_and.1 h0 hne; omega)
    (Decidable.or_iff_not_imp_left.2 fun hne => by have := not_and.1 h1 hne; omega)

/-! ### The host's image accesses -/

/-- R86: a host image write below IMG_LEN while BUSY = 1 is the race. -/
theorem hostWriteByte_race {a : Word} (b : Byte) (hb : s.busy = true) (ha : a.toNat < s.imgLen.toNat) :
    hostWriteByte s a b = .fault .imageRace := by
  simp [hostWriteByte, hb, ha]

/-- R74, R86: every other host image write writes the byte. -/
theorem hostWriteByte_noRace {a : Word} (b : Byte) (h : ¬(s.busy = true ∧ a.toNat < s.imgLen.toNat)) :
    hostWriteByte s a b = .next { s with image := writeByte s.image a.toNat b } := by
  rw [hostWriteByte, if_neg (by simpa using h)]

/-- R82: the write set of the engine, as bounds. -/
theorem inHeaderWords_iff (a : Nat) : inHeaderWords a = true ↔ 0x10 ≤ a ∧ a < 0x18 :=
  decide_eq_true_iff

/-- R87: a host image read that meets no command's write set is the byte. -/
theorem hostReadByte_stable {a : Word} (h : ¬(s.busy = true ∧ 0x10 ≤ a.toNat ∧ a.toNat < 0x18)) :
    s.hostReadByte a = s.logReading (.byte a (readByte s.image a.toNat)) 0 := by
  rw [State.hostReadByte, if_neg (by rwa [Bool.and_eq_true, inHeaderWords_iff])]

/-- R87: a host read of a header byte while BUSY = 1 is the next draw between the old byte and the new one. -/
theorem hostReadByte_drawn {a : Word} (hb : s.busy = true) (ha : 0x10 ≤ a.toNat ∧ a.toNat < 0x18) :
    s.hostReadByte a = s.logReading
      (.byte a (drawBetween s.draws (readByte s.image a.toNat) (readByte s.afterPending.image a.toNat))) 1 := by
  rw [State.hostReadByte, if_pos (by rw [Bool.and_eq_true, inHeaderWords_iff]; exact ⟨hb, ha⟩)]

/-- A draw between two values is one of them. -/
theorem drawBetween_eq_or {α : Type} (n : Nat) (old new : α) :
    drawBetween n old new = old ∨ drawBetween n old new = new :=
  drawBetween_of_both (P := fun v => v = old ∨ v = new) n (.inl rfl) (.inr rfl)

/-! ### Where the machine stops -/

/-- R205, R248: every move but a racing image write has a next state. -/
theorem makeMove_isNext {m : Move}
    (hm : ∀ a b, m = .imgWrite a b → ¬(s.busy = true ∧ a.toNat < s.imgLen.toNat)) :
    ∃ t, makeMove m s = .next t := by
  cases m with
  | imgWrite a b => exact ⟨_, hostWriteByte_noRace b (hm a b rfl)⟩
  | engine => exact engineMove_isNext s
  | regWrite idx v => exact ⟨_, rfl⟩
  | regRead idx => exact ⟨_, rfl⟩
  | imgRead a => exact ⟨_, rfl⟩
  | reset => exact ⟨_, rfl⟩

end Machine

open Machine

/-- Settles O60, from the laws of the image words. -/
theorem imageWordsAreBigEndian : Obligations.ImageWordsAreBigEndian := by
  refine ⟨readWord_toNat, fun m a v hwf ha => ?_⟩
  have hspace : a + 3 < 2 ^ 32 := by omega
  obtain ⟨e0, e1, e2, e3⟩ := readByte_writeWord m a v hspace hwf
  exact ⟨e0, e1, e2, e3, fun _ hb => readByte_writeWord_outside m a v hb,
    readWord_writeWord_same m a v hspace hwf, wf_writeWord m a v hspace hwf⟩

/-- Settles O30: only HDRFIX and FIX store (`exec_image`), and a compare stores what it reports (`readByte_headerFix`). -/
theorem memoryFrameOfEveryCommand : Obligations.MemoryFrameOfEveryCommand := by
  intro i s t h
  refine ⟨fun hhdrfix hfix => ?_, fun a h0 h1 => ?_⟩
  · obtain ht | ⟨hi, -⟩ := exec_image h
    · exact ht
    · exact absurd hi (not_or.2 ⟨hhdrfix, hfix⟩)
  · obtain ht | ⟨u, hu, rfl⟩ := exec_keeps_image_or_compares h
    · rw [ht]
    · rw [← hu]; exact readByte_headerFix h0 h1

/-- Settles O29: outside both header words the memory frame has no exception. -/
theorem commandsWriteOnlyTheHeaderWords : Obligations.CommandsWriteOnlyTheHeaderWords := by
  intro i s t a h ha
  obtain ⟨-, hframe⟩ := memoryFrameOfEveryCommand i s t h
  exact hframe a (by omega) (by omega)

/-- Settles O45: the race by `hostWriteByte_race`, any other write by the laws of `writeByte`. -/
theorem hostImageWrites : Obligations.HostImageWrites := by
  intro s a b rest hm
  rw [step_of_moves_cons hm]
  refine ⟨fun hb ha => hostWriteByte_race (s := { s with moves := rest }) b hb ha, fun h => ?_⟩
  have hrace : ¬(s.busy = true ∧ a.toNat < s.imgLen.toNat) :=
    not_and_or.2 (h.imp Bool.eq_false_iff.1 Nat.not_lt.2)
  exact ⟨writeByte s.image a.toNat b, hostWriteByte_noRace (s := { s with moves := rest }) b hrace,
    fun _ hne => readByte_writeByte_ne s.image b hne,
    fun hwf => ⟨readByte_writeByte_same _ _ _ hwf, wf_writeByte _ _ _ a.isLt hwf⟩⟩

/-- Settles O46: a header byte while BUSY = 1 is a draw between the old byte and the one of `State.afterPending`, which is
the engine's next state. -/
theorem hostImageReads : Obligations.HostImageReads := by
  intro s a rest hm
  rw [step_of_moves_cons hm]
  refine ⟨fun h => ?_, fun hb h1 h2 => ?_⟩
  · have hstable : ¬(s.busy = true ∧ 0x10 ≤ a.toNat ∧ a.toNat < 0x18) :=
      not_and_or.2 (h.imp Bool.eq_false_iff.1 (by omega))
    exact congrArg _ (hostReadByte_stable (s := { s with moves := rest }) hstable)
  · exact ⟨_, _, engineMove_afterPending { s with moves := rest }, drawBetween_eq_or s.draws _ _,
      congrArg _ (hostReadByte_drawn (s := { s with moves := rest }) hb ⟨h1, h2⟩)⟩

/-- Settles O6: a racing write is the fault of `hostWriteByte_race`; every other move, and the engine's turn when none is
left, has a next state. -/
theorem onlyTheHostRaceStopsTheMachine : Obligations.OnlyTheHostRaceStopsTheMachine := by
  intro s
  refine ⟨fun ⟨a, b, rest, hm, hb, ha⟩ => ?_, fun hrace => ?_⟩
  · rw [step_of_moves_cons hm]
    exact hostWriteByte_race (s := { s with moves := rest }) b hb ha
  · cases hm : s.moves with
    | nil => rw [step_of_moves_nil hm]; exact engineMove_isNext s
    | cons m rest =>
      rw [step_of_moves_cons hm]
      refine makeMove_isNext fun a b hw hbad => hrace ⟨a, b, rest, ?_, hbad⟩
      rw [hm, hw]

end Sys2Proof
end

section
/-! Proofs of family 30_encoding.md: decode and encode agree in both directions (O1), the illegal words and what they do
(O3), the sample words (O2) and the pseudo-instructions (O50). The decoder's answers come from its equations: one for a
word whose field Z is not zero, one for the others, and one for each range of the selector. -/

namespace Sys2Proof

open Machine

/-! ### The fields of an encoded word -/

/-- R106: an encoded word has zeros above its selector. -/
theorem zField_encode (i : Instr) : zField (encode i) = 0#28 := BitVec.extractLsb'_append_eq_left

/-- R106: the selector of an encoded word is its command's. -/
theorem opField_encode (i : Instr) : opField (encode i) = opOf i := BitVec.extractLsb'_append_eq_right

/-! ### The decoder, by field -/

/-- R104: a word whose field Z is not zero is rejected for it. -/
theorem decode_of_zField_ne {w : Word} (h : zField w ≠ 0#28) : decode w = .error .zNotZero := if_pos h

/-- R106: every other word is decoded by its selector. -/
theorem decode_of_zField_eq {w : Word} (h : zField w = 0#28) : decode w = decodeOp (opField w) :=
  if_neg (not_not_intro h)

/-- R103: the selector of a command selects it. -/
theorem decodeOp_opOf (i : Instr) : decodeOp (opOf i) = .ok i := by
  cases i <;> rfl

/-- R104: the selectors that are rejected are those from 7 up. -/
theorem decodeOp_error_iff (op : BitVec 4) : (∃ e, decodeOp op = .error e) ↔ 7 ≤ op.toNat := by
  unfold decodeOp
  split
  case h_8 => exact iff_of_true ⟨_, rfl⟩ (by grind)
  all_goals simp [*]

/-- R106: decoding undoes encoding. -/
theorem decode_encode (i : Instr) : decode (encode i) = .ok i := by
  rw [decode_of_zField_eq (zField_encode i), opField_encode, decodeOp_opOf]

/-- R106: a command's word is the one word that decodes to it. -/
theorem decode_eq_ok_iff (w : Word) (i : Instr) : decode w = .ok i ↔ w = encode i :=
  ⟨eq_encode_of_decode, fun h => h ▸ decode_encode i⟩

/-- Settles O1: both directions are `decode_eq_ok_iff`, and the seven words are computed. -/
theorem decodeAnswersExactlyTheEncodedWord : Obligations.DecodeAnswersExactlyTheEncodedWord :=
  ⟨decode_eq_ok_iff, rfl, rfl, rfl, rfl, rfl, rfl, rfl⟩

/-! ### Illegal words -/

/-- R104: the two causes of a rejection. -/
theorem decode_error_iff (w : Word) :
    (∃ e, decode w = .error e) ↔ zField w ≠ 0#28 ∨ 7 ≤ (opField w).toNat := by
  by_cases hz : zField w = 0#28
  · rw [decode_of_zField_eq hz, decodeOp_error_iff]
    simp [hz]
  · exact iff_of_true ⟨_, decode_of_zField_ne hz⟩ (.inl hz)

/-- The seven words of R103. -/
def legalWords : List Word := [Instr.nop, .tblgen, .fprint, .classify, .cksum, .hdrfix, .fix].map encode

/-- The list holds the word of every command and no other. -/
theorem mem_legalWords (w : Word) : w ∈ legalWords ↔ ∃ i, w = encode i := by
  refine ⟨fun h => ?_, fun ⟨i, hi⟩ => hi ▸ List.mem_map_of_mem (by cases i <;> decide)⟩
  obtain ⟨i, -, hi⟩ := List.mem_map.1 h
  exact ⟨i, hi.symm⟩

/-- R104: a word is rejected when it is none of the seven. -/
theorem decode_error_iff_not_mem (w : Word) : (∃ e, decode w = .error e) ↔ w ∉ legalWords := by
  rw [mem_legalWords, ← exists_congr (decode_eq_ok_iff w)]
  cases decode w <;> simp

/-- R45, R104: with an illegal word pending the engine's turn completes with ILLEGAL_CMD. -/
theorem Machine.engineMove_of_illegal {s : State} {w : Word} {e : Illegal} (hp : s.pending = some w)
    (hd : decode w = .error e) : engineMove s = .next (s.complete .illegalCmd .none) := by
  simp [engineMove, hp, hd, execIllegal, State.raiseError]

/-- Settles O3: acceptance does not look at the word, and the engine's turn is `engineMove_of_illegal`. -/
theorem illegalWordsCompleteWithIllegalCmd : Obligations.IllegalWordsCompleteWithIllegalCmd := by
  refine ⟨decode_error_iff, ⟨legalWords, rfl, by decide, decode_error_iff_not_mem⟩,
    fun s w e rest _ hb hm => step_regWrite_idle hm regAt_0 hb rfl, fun s w e hd hp hm => ?_,
    fun s w e rest hd hp hm => ?_⟩
  · rw [step_of_moves_nil hm]
    exact engineMove_of_illegal hp hd
  · rw [step_of_moves_cons hm]
    exact engineMove_of_illegal (s := { s with moves := rest }) hp hd

/-! ### Sample words -/

/-- R100, R106: the table's number of a command is its word's, read at the one length of 32 bits. -/
theorem decodeTableWord_eq_some {n : Nat} {i : Instr} (h : tableWord 32 n = encode i) :
    decodeTableWord 32 n = some i := by
  simp [decodeTableWord, h, decode_encode]

/-- Settles O2: the legal words by `decode_encode`, the illegal ones by their fields. -/
theorem sampleWordsDecodeAsListed : Obligations.SampleWordsDecodeAsListed :=
  ⟨decode_encode .nop, decode_encode .classify, decode_encode .fix, decode_of_zField_eq (by decide),
    decode_of_zField_ne (by decide), decode_of_zField_ne (by decide), decode_of_zField_ne (by decide),
    decodeTableWord_eq_some rfl, decodeTableWord_eq_some rfl, decodeTableWord_eq_some rfl,
    decodeTableWord_eq_some rfl, by decide⟩

/-! ### The pseudo-instructions -/

/-- R20, R21: the word address of table entry `i`. -/
theorem Machine.portIndex_table (i : Byte) : portIndex (0x400 + 4 * i.toNat) = 0x100#10 + i.setWidth 10 := by
  apply BitVec.eq_of_toNat_eq
  simp only [portIndex, BitVec.toNat_ofNat, BitVec.toNat_add, BitVec.toNat_setWidth]
  omega

/-- Settles O50: CMD is word address 0, STATUS 1, and a table entry stands where `portIndex_table` puts it. -/
theorem pseudoInstructionExpansions : Obligations.PseudoInstructionExpansions := by
  refine ⟨fun _ => rfl, rfl, rfl, rfl, fun i => ?_, fun _ => rfl⟩
  rw [HostStmt.expand, portIndex_table]

end Sys2Proof
end

section
/-! Proofs of family 40_crc32_table_generator.md. One iteration of the table builder is linear over GF(2) (O10), and on
a word whose low bits are zero the iterations only shift; a word split at bit 8 then gives the table-driven byte step
(O11). TBLGEN leaves the iterations from each index (O9). The fingerprint of a window is that of the list of its bytes
(O12), which gives FPRINT's result (O14); the fingerprints of short lists are computed (O13). -/

namespace Sys2Proof

open Machine

/-! ### The iteration of the table builder -/

/-- R120: one iteration is the shifted word XOR what the bit shifted out contributes. -/
theorem Stated.shiftXor_eq (a : Word) :
    Stated.shiftXor a = (a >>> 1) ^^^ if a.getLsbD 0 then 0xEDB88320#32 else 0#32 := by
  unfold Stated.shiftXor
  split
  · rfl
  · exact (BitVec.xor_zero).symm

/-- R121: one iteration is linear over GF(2), because both the shift and the contribution of the bit shifted out are. -/
theorem Stated.shiftXor_xor (a b : Word) :
    Stated.shiftXor (a ^^^ b) = Stated.shiftXor a ^^^ Stated.shiftXor b := by
  have hpoly (p q : Bool) : (if p ^^ q then 0xEDB88320#32 else 0#32) =
      (if p then 0xEDB88320#32 else 0#32) ^^^ if q then 0xEDB88320#32 else 0#32 := by
    cases p <;> cases q <;> rfl
  rw [Stated.shiftXor_eq, BitVec.ushiftRight_xor_distrib, BitVec.getLsbD_xor, hpoly, Stated.shiftXor_eq,
    Stated.shiftXor_eq]
  ac_rfl

/-- R121: any number of iterations is linear. -/
theorem Stated.iterate_shiftXor_xor (n : Nat) (a b : Word) :
    Stated.shiftXor^[n] (a ^^^ b) = Stated.shiftXor^[n] a ^^^ Stated.shiftXor^[n] b :=
  Function.Semiconj₂.iterate Stated.shiftXor_xor n a b

/-- R120: as long as the bits shifted out are zero, the iterations only shift. -/
theorem Stated.iterate_shiftXor_of_low_zero {n : Nat} {a : Word} (h : ∀ k < n, a.getLsbD k = false) :
    Stated.shiftXor^[n] a = a >>> n := by
  induction n with
  | zero => rfl
  | succ n ih =>
    have hbit : (a >>> n).getLsbD 0 = false := by rw [BitVec.getLsbD_ushiftRight]; exact h n n.lt_succ_self
    rw [Function.iterate_succ_apply', ih fun k hk => h k (hk.trans n.lt_succ_self), Stated.shiftXor, hbit,
      BitVec.shiftRight_add]
    rfl

/-- R120: the model's iterations are those of the statements. -/
theorem Machine.tableSteps_eq_iterate (n : Nat) (a : Word) : tableSteps n a = Stated.shiftXor^[n] a := by
  induction n generalizing a with
  | zero => rfl
  | succ n ih => exact ih (tableStep a)

/-- R120: a table entry is eight iterations from its index. -/
theorem Machine.tableEntry_eq_iterate (i : Byte) : tableEntry i = Stated.shiftXor^[8] (i.setWidth 32) :=
  tableSteps_eq_iterate 8 _

/-! ### The table -/

/-- Settles O10: the listed entries are computed, and linearity is that of the eight iterations. -/
theorem tableEntriesAreLinear : Obligations.TableEntriesAreLinear := by
  refine ⟨rfl, rfl, rfl, rfl, rfl, rfl, rfl, rfl, fun i j => ?_⟩
  rw [tableEntry_eq_iterate, BitVec.setWidth_xor, Stated.iterate_shiftXor_xor, ← tableEntry_eq_iterate,
    ← tableEntry_eq_iterate]

/-- Settles O9: TBLGEN builds the table and completes; the built table holds eight iterations from each index. -/
theorem tblgenBuildsTheTable : Obligations.TblgenBuildsTheTable := by
  refine ⟨decode_encode .tblgen, fun s => ⟨s.buildTable.complete .none .none, rfl, rfl, fun i => ?_, rfl⟩⟩
  have hindex : (BitVec.ofNat 8 i.val).setWidth 32 = BitVec.ofNat 32 i.val :=
    BitVec.setWidth_ofNat_of_le_of_lt (by decide) i.isLt
  rw [State.complete_table, State.buildTable_table, builtTable_getElem, tableEntry_eq_iterate, hindex]

/-! ### The byte step -/

/-- R10: a byte has no bits from bit 8 up, so XORing it into a word keeps the word's high bits. -/
theorem Machine.xor_byte_ushiftRight (w : Word) (b : Byte) : (w ^^^ b.setWidth 32) >>> 8 = w >>> 8 := by
  have hbyte : (b.setWidth 32 : Word) >>> 8 = 0#32 := by
    apply BitVec.eq_of_toNat_eq
    simp only [BitVec.toNat_ushiftRight, BitVec.toNat_setWidth, BitVec.toNat_ofNat]
    omega
  rw [BitVec.ushiftRight_xor_distrib, hbyte, BitVec.xor_zero]

/-- R120, R122: of a word split into its high bits and its low byte, eight iterations only shift the high bits, and make
the low byte its table entry. -/
theorem Machine.iterate_shiftXor_eight (w : Word) :
    Stated.shiftXor^[8] w = (w >>> 8) ^^^ tableEntry (w.setWidth 8) := by
  let low : Word := (w.setWidth 8).setWidth 32
  have hlow : ∀ k < 8, (w ^^^ low).getLsbD k = false := fun k hk => by
    have hword : k < 32 := by omega
    simp [low, hk, hword]
  calc Stated.shiftXor^[8] w
      = Stated.shiftXor^[8] ((w ^^^ low) ^^^ low) := by rw [BitVec.xor_assoc, BitVec.xor_self, BitVec.xor_zero]
    _ = ((w ^^^ low) >>> 8) ^^^ Stated.shiftXor^[8] low := by
        rw [Stated.iterate_shiftXor_xor, Stated.iterate_shiftXor_of_low_zero hlow]
    _ = (w >>> 8) ^^^ tableEntry (w.setWidth 8) := by rw [xor_byte_ushiftRight, tableEntry_eq_iterate]

/-- Settles O11, by the eight iterations of the accumulator with the byte XORed in. -/
theorem crcStepEqualsEightBitSteps : Obligations.CrcStepEqualsEightBitSteps := by
  intro acc b
  rw [iterate_shiftXor_eight, xor_byte_ushiftRight, crcStep]

/-! ### The fingerprint -/

/-- R123: the fingerprint of a window is that of the list of its bytes. -/
theorem Machine.fingerprint_eq_bytes (m : Image) (base n : Nat) :
    fingerprint m base n = fingerprintBytes (Stated.bytesFrom m base n) :=
  congrArg (~~~ ·) (fingerprintLoop_eq_foldl m n base Config.crcInit)

/-- Settles O12: masking with FF before taking the low byte changes nothing, and the loop is the fold. -/
theorem fingerprintFoldsTheBytesInOrder : Obligations.FingerprintFoldsTheBytesInOrder := by
  refine ⟨fun acc b => ?_, fun _ => rfl, fingerprint_eq_bytes⟩
  have hmask (w : Word) : (w &&& 0xFF#32).setWidth 8 = w.setWidth 8 := by
    rw [BitVec.setWidth_and]; exact BitVec.and_allOnes
  rw [hmask, crcStep]

/-- Settles O13, by computing. -/
theorem fingerprintCornerCases : Obligations.FingerprintCornerCases := ⟨rfl, rfl, rfl, rfl, rfl⟩

/-! ### FPRINT -/

/-- R126: the lazy build leaves TV = 1 and the built table, or the one that was there, and nothing else changed. -/
theorem Machine.State.ensureTable_eq (s : State) :
    s.ensureTable = { s with table := if s.tv then s.table else builtTable, tv := true } := by
  apply State.ext <;> simp

/-- Settles O14, by the two equations of FPRINT. -/
theorem fprintResult : Obligations.FprintResult := by
  refine ⟨decode_encode .fprint, fun s => ⟨fun hlt => exec_fprint_of_lt hlt, fun hle => ?_⟩⟩
  rw [exec_fprint_of_le hle, State.fprinted, fingerprint_eq_bytes, State.ensureTable_eq]
  rfl

end Sys2Proof
end

section
/-! Proofs of family 41_rom_header_classifier.md. The five fingerprints written as a function of the identity: the lookup
finds an identity at its fingerprint and nowhere else (O15). CLASSIFY leaves the fingerprint of the boot-code window and
its identity (O16), so two runs on images that agree on the window leave the same ones (O17). -/

namespace Sys2Proof

open Machine

/-! ### The lookup -/

/-- R140: the fingerprint of an identity's boot code. -/
def Machine.Cic.fingerprint : Cic → Word
  | .cic6101 => 0x6170A4A1#32
  | .cic6102 => 0x90BB6CB5#32
  | .cic6103 => 0x0B050EE0#32
  | .cic6105 => 0x98BC2C86#32
  | .cic6106 => 0xACC8580A#32

/-- R140: an identity's fingerprint is found, because no two are equal. -/
theorem Machine.Cic.classify_fingerprint (c : Cic) : classify c.fingerprint = .known c := by
  cases c <;> rfl

/-- R140: the map is exact. A branch of the lookup that answers an identity has compared with that identity's
fingerprint. -/
theorem Machine.classify_eq_known_iff (fp : Word) (c : Cic) : classify fp = .known c ↔ fp = c.fingerprint := by
  refine ⟨fun h => ?_, fun h => h ▸ c.classify_fingerprint⟩
  unfold classify at h
  split_ifs at h <;> (cases h; assumption)

/-- R140: the five fingerprints. -/
def Machine.Cic.fingerprints : List Word :=
  [Cic.cic6101, .cic6102, .cic6103, .cic6105, .cic6106].map Cic.fingerprint

/-- The list holds the fingerprint of every identity and no other value. -/
theorem Machine.Cic.mem_fingerprints (fp : Word) : fp ∈ fingerprints ↔ ∃ c : Cic, fp = c.fingerprint := by
  refine ⟨fun h => ?_, fun ⟨c, hc⟩ => hc ▸ List.mem_map_of_mem (by cases c <;> decide)⟩
  obtain ⟨c, -, hc⟩ := List.mem_map.1 h
  exact ⟨c, hc.symm⟩

/-- R140: a value is Unknown when it is none of the five, because it is then classified as no identity. -/
theorem Machine.classify_eq_unknown_iff (fp : Word) : classify fp = .unknown ↔ fp ∉ Cic.fingerprints := by
  rw [Cic.mem_fingerprints, ← exists_congr (classify_eq_known_iff fp)]
  cases classify fp <;> simp

/-- Settles O15: `classify_eq_known_iff` at each identity, and Unknown is the rest. -/
theorem classifyIsTheExactLookup : Obligations.ClassifyIsTheExactLookup :=
  ⟨fun fp => ⟨classify_eq_known_iff fp .cic6101, classify_eq_known_iff fp .cic6102,
    classify_eq_known_iff fp .cic6103, classify_eq_known_iff fp .cic6105, classify_eq_known_iff fp .cic6106,
    classify_eq_unknown_iff fp⟩, rfl, rfl, rfl, rfl, rfl, rfl⟩

/-! ### CLASSIFY -/

/-- R141: the boot fingerprint is that of the bytes of the boot-code window. -/
theorem Machine.bootFingerprint_eq_bytes (m : Image) :
    bootFingerprint m = fingerprintBytes (Stated.bootBytes m) := by
  rw [bootFingerprint, fingerprint_eq_bytes, Stated.bootBytes]

/-- Settles O16, by the two equations of CLASSIFY. -/
theorem classifyResult : Obligations.ClassifyResult := by
  refine ⟨decode_encode .classify, rfl, rfl, fun s => ⟨fun hlt => exec_classify_of_lt hlt, fun hle => ?_⟩⟩
  rw [exec_classify_of_le hle, State.ensureTable_eq, State.classifyImage, bootFingerprint_eq_bytes]
  rfl

/-- R142: CLASSIFY in bounds leaves the boot fingerprint and its identity. -/
theorem Machine.exec_classify_fp_id {s t : State} (hb : Config.bcOff + Config.bcLen ≤ s.imgLen.toNat)
    (h : exec .classify s = .next t) :
    t.fp = bootFingerprint s.image ∧ t.id = classify (bootFingerprint s.image) := by
  obtain ⟨hlt, -⟩ | ⟨-, rfl⟩ := exec_classify_inv h
  · exact absurd hb hlt.not_ge
  · simp

/-- Settles O17: what CLASSIFY leaves in FP and ID is a function of the boot fingerprint, which reads the window only. -/
theorem classifyDependsOnlyOnTheBootCode : Obligations.ClassifyDependsOnlyOnTheBootCode := by
  intro s s' t t' hb hb' hagree h h'
  obtain ⟨hfp, hid⟩ := exec_classify_fp_id hb h
  obtain ⟨hfp', hid'⟩ := exec_classify_fp_id hb' h'
  have hboot := bootFingerprint_congr s.image s'.image hagree
  exact ⟨by rw [hfp, hfp', hboot], by rw [hid, hid', hboot]⟩

end Sys2Proof
end

section
/-! Proofs of family 42_checksum_mixer_engine.md. One mixing step, accumulator by accumulator, in the library's rotation
and in exact sums (O18); the seeds and finalisations are computed (O19); only CIC-6105 makes a difference to a step (O20).
CKSUM's pass is the fold over the iterations (O21), so the closed forms follow by induction over them (O22), and so does
the agreement of CIC-6101 and CIC-6102 (O23). -/

namespace Sys2Proof

open Machine

/-! ### One mixing step -/

/-- R11: below 32 the model's rotation is the library's. -/
theorem Machine.rotl32_eq_rotateLeft (v : Word) {n : Nat} (hn : n < 32) : rotl32 v n = v.rotateLeft n := by
  rw [rotl32, BitVec.rotateLeft_def, Nat.mod_eq_of_lt hn]
  split
  case isTrue h => subst h; rw [BitVec.shiftLeft_zero, Nat.sub_zero, BitVec.ushiftRight_eq_zero le_rfl, BitVec.or_zero]
  case isFalse => rfl

/-- R153: the rotation of a mixing step is by the data word mod 32. -/
theorem Machine.rotl32_low_five_bits (d : Word) : rotl32 d (d &&& 0x1F).toNat = d.rotateLeft (d.toNat % 32) := by
  have hlow : (d &&& 0x1F).toNat = d.toNat % 32 := by
    rw [BitVec.toNat_and]; exact Nat.and_two_pow_sub_one_eq_mod d.toNat 5
  rw [hlow, rotl32_eq_rotateLeft d (Nat.mod_lt _ (by decide))]

/-- R11, R153: a sum carries when the wrapped sum is below its first operand. -/
theorem Machine.le_add_toNat_iff_add_lt (a d : Word) : 2 ^ 32 ≤ a.toNat + d.toNat ↔ (a + d).toNat < a.toNat := by
  rw [BitVec.toNat_add]
  omega

section
variable (acc : Acc) (d aux : Word) (c : Cic)

@[simp] theorem Machine.mixStep_a6 : (mixStep acc d aux c).a6 = acc.a6 + d := rfl

@[simp] theorem Machine.mixStep_a4 :
    (mixStep acc d aux c).a4 = if 2 ^ 32 ≤ acc.a6.toNat + d.toNat then acc.a4 + 1 else acc.a4 := by
  simp [mixStep, carry32, add32]

@[simp] theorem Machine.mixStep_a3 : (mixStep acc d aux c).a3 = acc.a3 ^^^ d := rfl

@[simp] theorem Machine.mixStep_a5 : (mixStep acc d aux c).a5 = acc.a5 + d.rotateLeft (d.toNat % 32) := by
  rw [← rotl32_low_five_bits]; rfl

theorem Machine.mixStep_a2 : (mixStep acc d aux c).a2 =
    if d.toNat < acc.a2.toNat then acc.a2 ^^^ d.rotateLeft (d.toNat % 32)
    else acc.a2 ^^^ ((mixStep acc d aux c).a6 ^^^ d) := by
  rw [← rotl32_low_five_bits]; rfl

theorem Machine.mixStep_a1 : (mixStep acc d aux c).a1 =
    if c = .cic6105 then acc.a1 + (aux ^^^ d) else acc.a1 + ((mixStep acc d aux c).a5 ^^^ d) := rfl

end

/-- Settles O18, by the equation of each accumulator. -/
theorem mixStepFollowsTheRule : Obligations.MixStepFollowsTheRule := fun acc d aux c =>
  ⟨BitVec.toNat_add _ _, mixStep_a4 acc d aux c, le_add_toNat_iff_add_lt acc.a6 d, mixStep_a3 acc d aux c,
    mixStep_a5 acc d aux c, mixStep_a2 acc d aux c, mixStep_a1 acc d aux c⟩

/-- Settles O19: each clause is an equation of `seed` or `finalize`. -/
theorem seedsAndFinalisation : Obligations.SeedsAndFinalisation := by
  refine ⟨rfl, rfl, rfl, rfl, rfl, fun a => ⟨rfl, rfl, fun c hc => ?_⟩⟩
  obtain rfl | rfl | rfl := hc <;> rfl

/-! ### The auxiliary word -/

/-- R153: apart from CIC-6105, neither the identity nor the auxiliary word makes a difference to a mixing step. -/
theorem Machine.mixStep_eq_of_ne_cic6105 (acc : Acc) (d aux aux' : Word) {c c' : Cic} (hc : c ≠ .cic6105)
    (hc' : c' ≠ .cic6105) : mixStep acc d aux c = mixStep acc d aux' c' := by
  simp only [mixStep, if_neg hc, if_neg hc']

/-- Settles O20: the window offset is the low byte of `4 * k`, a multiple of 4 below 0x100. -/
theorem auxiliaryReadsStayInTheirWindow : Obligations.AuxiliaryReadsStayInTheirWindow := by
  refine ⟨fun k _ => ?_, fun _ _ => rfl, fun acc d aux aux' c hc => mixStep_eq_of_ne_cic6105 acc d aux aux' hc hc⟩
  have haddr : auxAddr (0x1000 + 4 * k) = 0x750 + (0x1000 + 4 * k) % 0x100 := rfl
  omega

/-! ### CKSUM -/

/-- R156: the pass is the fold over the 0x40000 iterations. -/
theorem Machine.checksumAcc_eq_fold (m : Image) (c : Cic) : checksumAcc m c = Stated.checksumFold m c := by
  unfold checksumAcc
  exact mixLoop_eq_foldl m c Config.ckIters Config.ckStart _

/-- Settles O21, by the three equations of CKSUM. -/
theorem cksumResult : Obligations.CksumResult := by
  refine ⟨decode_encode .cksum, fun s =>
    ⟨fun hlt => exec_cksum_of_lt hlt, fun hle hid => exec_cksum_of_unknown hle hid, fun c hle hid => ?_⟩⟩
  rw [exec_cksum_of_known hle hid, State.latchChecksum, checksumAcc_eq_fold, State.complete]

/-- R157: CKSUM with a known identity latches its checksum and completes. -/
theorem Machine.eq_latchChecksum_of_exec_cksum {s t : State} {c : Cic} (hle : 0x101000 ≤ s.imgLen.toNat)
    (hid : s.id = .known c) (h : exec .cksum s = .next t) : t = (s.latchChecksum c).complete .none .none := by
  rw [exec_cksum_of_known hle hid] at h
  exact (Host.Outcome.next.inj h).symm

/-! ### The closed forms -/

/-- R158: the closed forms of four accumulators after the `n` data words `d 0`, `d 1`, … from the seed `x`. -/
structure Machine.Acc.ClosedForms (x : Word) (d : Nat → Word) (n : Nat) (acc : Acc) : Prop where
  a6 : acc.a6.toNat = (x.toNat + ∑ k ∈ Finset.range n, (d k).toNat) % 2 ^ 32
  a4 : acc.a4.toNat = (x.toNat + (x.toNat + ∑ k ∈ Finset.range n, (d k).toNat) / 2 ^ 32) % 2 ^ 32
  a3 : acc.a3 = (List.range n).foldl (fun y k => y ^^^ d k) x
  a5 : acc.a5.toNat = (x.toNat + ∑ k ∈ Finset.range n, ((d k).rotateLeft ((d k).toNat % 32)).toNat) % 2 ^ 32

/-- R152: six copies of the seed have the closed forms of no data word. -/
theorem Machine.Acc.ClosedForms.all (x : Word) (d : Nat → Word) : (Acc.all x).ClosedForms x d 0 := by
  have hx : x.toNat < 2 ^ 32 := x.isLt
  constructor
  case a3 => rfl
  all_goals simp only [Acc.all, Finset.range_zero, Finset.sum_empty]; omega

/-- R158: a mixing step with the next data word keeps the closed forms. Its carry is the multiple of 2^32 that the exact
sum gains. -/
theorem Machine.Acc.ClosedForms.mixStep {x : Word} {d : Nat → Word} {n : Nat} {acc : Acc}
    (h : acc.ClosedForms x d n) (aux : Word) (c : Cic) : (mixStep acc (d n) aux c).ClosedForms x d (n + 1) := by
  obtain ⟨h6, h4, h3, h5⟩ := h
  constructor
  case a6 => rw [mixStep_a6, BitVec.toNat_add, h6, Finset.sum_range_succ]; omega
  case a4 =>
    have hd : (d n).toNat < 2 ^ 32 := (d n).isLt
    rw [mixStep_a4, Finset.sum_range_succ]
    split
    case isTrue hcarry =>
      have hone : (1 : Word).toNat = 1 := rfl
      rw [BitVec.toNat_add, hone]; omega
    case isFalse hcarry => omega
  case a3 => rw [mixStep_a3, h3, List.range_succ, List.foldl_concat]
  case a5 => rw [mixStep_a5, BitVec.toNat_add, h5, Finset.sum_range_succ]; omega

/-- R158: the mixing loop from six copies of the seed has the closed forms, by induction on its iterations. -/
theorem Machine.mixLoop_closedForms (m : Image) (c : Cic) (n : Nat) (x : Word) :
    (mixLoop m c n Config.ckStart (Acc.all x)).ClosedForms x (Stated.dataWord m) n := by
  induction n with
  | zero => exact .all x _
  | succ n ih => rw [mixLoop_succ]; exact ih.mixStep _ c

/-- Settles O22, by the closed forms of the loop that CKSUM runs. -/
theorem checksumClosedForms : Obligations.ChecksumClosedForms := by
  intro s t c hle hid h
  have hacc : t.acc.ClosedForms (seed c) (Stated.dataWord s.image) 0x40000 := by
    rw [eq_latchChecksum_of_exec_cksum hle hid h, State.complete_acc, State.latchChecksum_acc]
    unfold checksumAcc
    exact mixLoop_closedForms s.image c Config.ckIters (seed c)
  exact ⟨hacc.a6, hacc.a4, hacc.a3, hacc.a5⟩

/-! ### CIC-6101 and CIC-6102 -/

/-- R156: the loop runs alike for all identities but CIC-6105. -/
theorem Machine.mixLoop_eq_of_ne_cic6105 (m : Image) {c c' : Cic} (hc : c ≠ .cic6105) (hc' : c' ≠ .cic6105)
    (n off : Nat) (acc : Acc) : mixLoop m c n off acc = mixLoop m c' n off acc := by
  induction n with
  | zero => rfl
  | succ n ih => rw [mixLoop_succ, mixLoop_succ, ih]; exact mixStep_eq_of_ne_cic6105 _ _ _ _ hc hc'

/-- R156: identities with one seed, neither of them CIC-6105, have one checksum. -/
theorem Machine.checksumAcc_eq_of_seed_eq (m : Image) {c c' : Cic} (hc : c ≠ .cic6105) (hc' : c' ≠ .cic6105)
    (hseed : seed c = seed c') : checksumAcc m c = checksumAcc m c' := by
  unfold checksumAcc
  rewrite [hseed]
  exact mixLoop_eq_of_ne_cic6105 m hc hc' _ _ _

/-- Settles O23: the accumulators agree by their one seed, and the two identities have one finalisation. -/
theorem cic6101And6102ChecksumsAgree : Obligations.Cic6101And6102ChecksumsAgree := by
  intro s t t' hle h h'
  obtain rfl := eq_latchChecksum_of_exec_cksum (s := { s with id := .known .cic6101 }) hle rfl h
  obtain rfl := eq_latchChecksum_of_exec_cksum (s := { s with id := .known .cic6102 }) hle rfl h'
  have hacc : checksumAcc s.image .cic6101 = checksumAcc s.image .cic6102 :=
    checksumAcc_eq_of_seed_eq s.image nofun nofun rfl
  exact ⟨hacc, congrArg (fun a => (finalize a .cic6102).1) hacc, congrArg (fun a => (finalize a .cic6102).2) hacc⟩

end Sys2Proof
end

section
/-! Proofs of family 43_header_comparator_patcher.md. HDRFIX and FIX in their cases (O24, O25), FIX as its three stages
(O26) and on an image it has patched (O27), the stored pair after a compare (O28), the result codes (O35), and NOP (O8).
FIX with a known identity is HDRFIX on the state with the checksum latched (`exec_fix_eq_exec_hdrfix`); how the two
commands can end is said once (`exec_hdrfix_or_fix_inv`). -/

namespace Sys2Proof

open Machine

/-! ### The compare -/

/-- R185: after a compare both stored words are the pair. -/
theorem Machine.State.storedWords_headerFix {s : State} (hwf : Memory.wf s.image = true) :
    storedWord0 s.headerFix.image = s.headerFix.ck0 ∧ storedWord1 s.headerFix.image = s.headerFix.ck1 :=
  ⟨storedWord0_headerImage _ _ _ hwf, storedWord1_headerImage _ _ _ hwf⟩

/-- R183: a compare that finds both words equal to the pair writes nothing and reports ALREADY_CORRECT. -/
theorem Machine.State.headerFix_of_match (s : State) (h0 : storedWord0 s.image = s.ck0)
    (h1 : storedWord1 s.image = s.ck1) : s.headerFix.image = s.image ∧ s.headerFix.w0 = false ∧
      s.headerFix.w1 = false ∧ s.headerFix.res = .alreadyCorrect := by
  simp [h0, h1, headerImage_of_match]

/-- R184: a compare reports FIXED or ALREADY_CORRECT, and ALREADY_CORRECT exactly when both words match. -/
theorem Machine.State.headerFix_res_cases (s : State) :
    (s.headerFix.res = .fixed ∧ (s.headerFix.st0 ≠ s.headerFix.ck0 ∨ s.headerFix.st1 ≠ s.headerFix.ck1)) ∨
    (s.headerFix.res = .alreadyCorrect ∧ s.headerFix.st0 = s.headerFix.ck0 ∧ s.headerFix.st1 = s.headerFix.ck1 ∧
      s.headerFix.image = s.image) := by
  by_cases h0 : storedWord0 s.image = s.ck0
  · by_cases h1 : storedWord1 s.image = s.ck1
    · obtain ⟨himg, -, -, hres⟩ := s.headerFix_of_match h0 h1
      exact .inr ⟨hres, h0, h1, himg⟩
    · exact .inl ⟨by simp [h1], .inr h1⟩
  · exact .inl ⟨by simp [h0], .inl h0⟩

/-- R184: a compare reports ALREADY_CORRECT when both stored words match, and FIXED otherwise. -/
theorem Machine.State.headerFix_res_eq (s : State) : s.headerFix.res =
    if readWord s.image 0x10 = s.ck0 ∧ readWord s.image 0x14 = s.ck1 then .alreadyCorrect else .fixed := by
  simp only [State.headerFix_res, Bool.or_eq_true, Bool.not_eq_true', decide_eq_false_iff_not, ← not_and_or, ite_not]
  rfl

/-! ### NOP and HDRFIX -/

/-- Settles O8: NOP is the bare completion. -/
theorem nopOnlyCompletes : Obligations.NopOnlyCompletes := ⟨decode_encode .nop, fun _ => rfl⟩

/-- R34: an identity that is not Unknown is one of the five. -/
theorem Machine.Identity.known_of_ne_unknown {i : Identity} (h : i ≠ .unknown) : ∃ c, i = .known c := by
  cases i with
  | unknown => exact absurd rfl h
  | known c => exact ⟨c, rfl⟩

/-- Settles O24, by the four equations of HDRFIX. After a compare the bits W0, W1 and RES are those of `headerFix`, and
every other field is the statement's by definition. -/
theorem hdrfixResult : Obligations.HdrfixResult := by
  refine ⟨decode_encode .hdrfix, fun s => ⟨fun hlt => exec_hdrfix_of_lt hlt,
    fun hle hcv hid => exec_hdrfix_of_unknown hle hcv hid, fun hle hcv hid => ?_, fun hle hcv => ?_⟩⟩
  · obtain ⟨c, hc⟩ := Identity.known_of_ne_unknown hid
    exact exec_hdrfix_of_known hle hcv hc
  · rw [exec_hdrfix_of_cv hle hcv]
    congr 1
    apply State.ext
    case w0 => exact decide_not.symm
    case w1 => exact decide_not.symm
    case res => exact s.headerFix_res_eq
    all_goals rfl

/-! ### FIX and its stages -/

/-- R188: FIX with a known identity ends as HDRFIX does from the state with that identity's checksum latched. -/
theorem Machine.exec_fix_eq_exec_hdrfix {s : State} {c : Cic} (hle : 0x101000 ≤ s.imgLen.toNat)
    (hid : classify (bootFingerprint s.image) = .known c) :
    exec .fix s = exec .hdrfix (s.ensureTable.classifyImage.latchChecksum c) := by
  have hlen : 0x18 ≤ (s.ensureTable.classifyImage.latchChecksum c).imgLen.toNat := by simp; omega
  rw [exec_fix_of_known hle hid, exec_hdrfix_of_cv hlen rfl]

/-- R141: the classification step writes the fingerprint of the window's bytes and its identity. -/
theorem Machine.State.ensureTable_classifyImage_eq (s : State) : s.ensureTable.classifyImage = { s with
    table := if s.tv then s.table else builtTable, tv := true, fp := fingerprintBytes (Stated.bootBytes s.image),
    id := classify (fingerprintBytes (Stated.bootBytes s.image)), cv := false } := by
  rw [State.ensureTable_eq, State.classifyImage, bootFingerprint_eq_bytes]

/-- R157, R188: the state with the checksum of the classified identity latched. -/
theorem Machine.State.ensureTable_classifyImage_latchChecksum_eq {s : State} {c : Cic} {k0 k1 : Word}
    (hid : classify (fingerprintBytes (Stated.bootBytes s.image)) = .known c)
    (hpair : finalize (Stated.checksumFold s.image c) c = (k0, k1)) :
    s.ensureTable.classifyImage.latchChecksum c = { s with
      table := if s.tv then s.table else builtTable, tv := true, fp := fingerprintBytes (Stated.bootBytes s.image),
      id := .known c, acc := Stated.checksumFold s.image c, ck0 := k0, ck1 := k1, cv := true } := by
  rw [State.ensureTable_classifyImage_eq, State.latchChecksum, checksumAcc_eq_fold, hpair, hid]

/-- Settles O25: FIX ends as HDRFIX does (O24) from the state with the checksum latched. -/
theorem fixResult : Obligations.FixResult := by
  refine ⟨decode_encode .fix, fun s =>
    ⟨fun hlt => exec_fix_of_lt hlt, fun hle hid => ?_, fun c k0 k1 hle hid hpair => ?_⟩⟩
  · rw [exec_fix_of_unknown hle (by rwa [bootFingerprint_eq_bytes]), State.ensureTable_classifyImage_eq, hid]
    rfl
  · obtain ⟨-, hhdrfix⟩ := hdrfixResult
    obtain ⟨-, -, -, hcompare⟩ := hhdrfix (s.ensureTable.classifyImage.latchChecksum c)
    rw [exec_fix_eq_exec_hdrfix hle (by rwa [bootFingerprint_eq_bytes])]
    rw [State.ensureTable_classifyImage_latchChecksum_eq hid hpair] at hcompare ⊢
    have hlen : 0x18 ≤ s.imgLen.toNat := by omega
    simpa only using hcompare hlen rfl

/-- R45, R182: a compare writes every field that acceptance writes. -/
@[simp] theorem Machine.State.headerFix_accept (s : State) (w : Word) : (s.accept w).headerFix = s.headerFix := rfl

/-- R182, R200: a compare writes every field that a completion writes. -/
@[simp] theorem Machine.State.headerFix_complete (s : State) (e : ErrCode) (r : ResCode) :
    (s.complete e r).headerFix = s.headerFix := rfl

/-- R45, R157: the checksum step writes none of the fields that acceptance writes. -/
theorem Machine.State.latchChecksum_accept (s : State) (w : Word) (c : Cic) :
    (s.accept w).latchChecksum c = (s.latchChecksum c).accept w := rfl

/-- R157, R200: the checksum step writes none of the fields that a completion writes. -/
theorem Machine.State.latchChecksum_complete (s : State) (e : ErrCode) (r : ResCode) (c : Cic) :
    (s.complete e r).latchChecksum c = (s.latchChecksum c).complete e r := rfl

/-- Settles O26: the completions and acceptances between the stages touch only what the last compare writes again. -/
theorem fixEqualsItsThreeStages : Obligations.FixEqualsItsThreeStages := by
  intro s hle
  have hwindow : Config.bcOff + Config.bcLen ≤ s.imgLen.toNat := by have := bootWindow_bounds; omega
  refine ⟨_, exec_classify_of_le hwindow, fun hid => ?_, fun hid => ?_⟩
  · rw [exec_fix_of_unknown hle (by simpa using hid)]
    rfl
  · obtain ⟨c, hc⟩ := Identity.known_of_ne_unknown hid
    refine ⟨_, _, exec_cksum_of_known (by simpa using hle) (by simpa using hc),
      exec_hdrfix_of_cv (by simp; omega) (by simp), ?_⟩
    rw [exec_fix_of_known hle (by simpa using hc)]
    simp only [State.latchChecksum_accept, State.latchChecksum_complete, State.headerFix_accept,
      State.headerFix_complete]

/-! ### FIX again -/

/-- R82, R189: the boot code's fingerprint does not see a header patch. -/
theorem Machine.bootFingerprint_headerImage (m : Image) (k0 k1 : Word) :
    bootFingerprint (headerImage m k0 k1) = bootFingerprint m :=
  bootFingerprint_congr _ _ fun a ha _ => readByte_headerImage_outside _ _ _ a
    (.inr (le_trans bootWindow_bounds.left ha))

/-- R82, R189: the checksum does not see a header patch. -/
theorem Machine.checksumAcc_headerImage (m : Image) (k0 k1 : Word) (c : Cic) :
    checksumAcc (headerImage m k0 k1) c = checksumAcc m c :=
  checksumAcc_congr _ _ _ (fun a ha _ => readByte_headerImage_outside _ _ _ a (by omega))
    fun a ha _ => readByte_headerImage_outside _ _ _ a (by omega)

/-- Settles O27: the second FIX sees the image of the first, whose patch neither the identity nor the checksum sees, so
it compares the same pair with the words it now finds stored. -/
theorem fixIsIdempotent : Obligations.FixIsIdempotent := by
  intro s t r hwf hle h himg hler
  obtain ⟨hlt, -⟩ | ⟨-, hid, rfl⟩ | ⟨-, c, hid, rfl⟩ := exec_fix_inv h
  · omega
  · have himg : r.image = s.image := by simpa using himg
    exact ⟨_, exec_fix_of_unknown hler (by rwa [State.accept_image, himg]), by simp [himg], by simp, by simp, nofun,
      fun _ => rfl, .inr (.inr rfl)⟩
  · set u := s.ensureTable.classifyImage.latchChecksum c with hu
    set v := (r.accept (encode .fix)).ensureTable.classifyImage.latchChecksum c with hv
    have hvimg : v.image = u.headerFix.image := by simp [hv, himg]
    have hck0 : v.ck0 = u.headerFix.ck0 := by simp [hu, hv, himg, checksumAcc_headerImage]
    have hck1 : v.ck1 = u.headerFix.ck1 := by simp [hu, hv, himg, checksumAcc_headerImage]
    have hboot : bootFingerprint r.image = bootFingerprint s.image := by
      simp [hu, himg, bootFingerprint_headerImage]
    obtain ⟨h0, h1⟩ := State.storedWords_headerFix (s := u) (by simpa [hu] using hwf)
    obtain ⟨hsame, hw0, hw1, hres⟩ := v.headerFix_of_match (by rw [hvimg, h0, hck0]) (by rw [hvimg, h1, hck1])
    refine ⟨v.headerFix, exec_fix_of_known hler (hboot ▸ hid), hsame.trans hvimg, hw0, hw1, fun _ => hres, ?_⟩
    obtain ⟨hfirst, -⟩ | ⟨hfirst, -⟩ := u.headerFix_res_cases <;> rw [hfirst]
    · exact ⟨nofun, .inl rfl⟩
    · exact ⟨nofun, .inr (.inl rfl)⟩

/-! ### The stored pair and the result codes -/

/-- R184, R203: HDRFIX and FIX end with a compare on the image as it was; or with an error that leaves the image alone,
which is UNIDENTIFIED in both codes with the identity Unknown, or reports no result. -/
theorem Machine.exec_hdrfix_or_fix_inv {i : Instr} {s t : State} (hi : i = .hdrfix ∨ i = .fix)
    (h : exec i s = .next t) : (∃ u : State, u.image = s.image ∧ t = u.headerFix) ∨
    t.image = s.image ∧ t.err ≠ .none ∧
      (t.err = .unidentified ∧ t.res = .unidentified ∧ t.id = .unknown ∨ t.err ≠ .unidentified ∧ t.res = .none) := by
  obtain rfl | rfl := hi
  · obtain ⟨-, rfl⟩ | ⟨-, -, rfl⟩ | ⟨-, -, hid, rfl⟩ | ⟨-, -, -, rfl⟩ := exec_hdrfix_inv h
    case inr.inl => exact .inl ⟨s, rfl, rfl⟩
    all_goals right; simp [*]
  · obtain ⟨-, rfl⟩ | ⟨-, hid, rfl⟩ | ⟨-, c, -, rfl⟩ := exec_fix_inv h
    case inr.inr => exact .inl ⟨s.ensureTable.classifyImage.latchChecksum c, by simp, rfl⟩
    all_goals right; simp [*]

/-- R202: the other commands report no result. -/
theorem Machine.exec_res_none {i : Instr} {s t : State} (hi : ¬(i = .hdrfix ∨ i = .fix)) (h : exec i s = .next t) :
    t.res = .none := by
  cases i with
  | nop => simp [exec_nop_inv h]
  | tblgen => simp [exec_tblgen_inv h]
  | fprint => obtain ⟨-, rfl⟩ | ⟨-, rfl⟩ := exec_fprint_inv h <;> rfl
  | classify => obtain ⟨-, rfl⟩ | ⟨-, rfl⟩ := exec_classify_inv h <;> rfl
  | cksum => obtain ⟨-, rfl⟩ | ⟨-, -, rfl⟩ | ⟨-, c, -, rfl⟩ := exec_cksum_inv h <;> rfl
  | hdrfix => exact absurd (.inl rfl) hi
  | fix => exact absurd (.inr rfl) hi

/-- R72: the four bytes of a word that is read, the most significant at the lowest address. -/
theorem Machine.readByte_of_readWord {m : Image} {a : Nat} {v : Word} (h : readWord m a = v) :
    readByte m a = v.extractLsb' 24 8 ∧ readByte m (a + 1) = v.extractLsb' 16 8 ∧
    readByte m (a + 2) = v.extractLsb' 8 8 ∧ readByte m (a + 3) = v.extractLsb' 0 8 := by
  subst h
  refine ⟨?_, ?_, ?_, ?_⟩ <;> apply BitVec.eq_of_toNat_eq <;>
    rw [BitVec.extractLsb'_toNat, readWord_toNat, Nat.shiftRight_eq_div_pow] <;> omega

/-- Settles O28: without error the command compared, so the words are those of `storedWords_headerFix`, and the bytes are
those of the words. -/
theorem storedPairIsConsistentAfterPatch : Obligations.StoredPairIsConsistentAfterPatch := by
  intro i s t hi hwf h herr
  obtain ⟨u, hu, rfl⟩ | ⟨-, hne, -⟩ := exec_hdrfix_or_fix_inv hi h
  · obtain ⟨h0, h1⟩ := State.storedWords_headerFix (s := u) (hu ▸ hwf)
    obtain ⟨b0, b1, b2, b3⟩ := readByte_of_readWord h0
    obtain ⟨b4, b5, b6, b7⟩ := readByte_of_readWord h1
    refine ⟨h0, h1, b0, b1, b2, b3, b4, b5, b6, b7, fun hw0 => ?_, fun hw1 => ?_⟩
    · have hmatch : storedWord0 u.image = u.ck0 := by simpa using hw0
      rw [← hu]; exact hmatch
    · have hmatch : storedWord1 u.image = u.ck1 := by simpa using hw1
      rw [← hu]; exact hmatch
  · exact absurd herr hne

/-- Settles O35: a compare's result agrees with its bits (`State.OutcomeInv.headerFix`) and with the words it compared;
an error of HDRFIX or FIX is UNIDENTIFIED or has no result, and no other command has one. -/
theorem resultCodesByOutcome : Obligations.ResultCodesByOutcome := by
  intro i s t h
  by_cases hi : i = .hdrfix ∨ i = .fix
  · obtain ⟨u, hu, rfl⟩ | ⟨himg, herr, ⟨hun, hres, hid⟩ | ⟨hun, hres⟩⟩ := exec_hdrfix_or_fix_inv hi h
    · obtain ⟨hfixed, halready, -, -, -⟩ := State.OutcomeInv.headerFix u
      refine ⟨by rw [hfixed]; simp [hi], by rw [halready]; simp [hi], ?_⟩
      obtain ⟨hres, hne⟩ | ⟨hres, h0, h1, himg⟩ := u.headerFix_res_cases <;> rw [hres]
      · exact ⟨by simp, nofun, fun _ => hne, nofun⟩
      · exact ⟨by simp, nofun, nofun, fun _ => ⟨h0, h1, himg.trans hu⟩⟩
    · simp [hi, hun, hres, hid, himg]
    · simp [herr, hun, hres]
  · simp [exec_res_none hi h, hi]

end Sys2Proof
end

section
/-! Proofs of family 60_exceptions.md: every command completes (O32), what an error leaves behind (O33), which error a
command reports and in which order (O34), OVR (O55), and the idle block (O5). `exec_error_inv` says once how a command can
end with an error. -/

namespace Sys2Proof

open Machine

/-! ### The completion and its errors -/

/-- Settles O32: the completion step always answers (`exec_isNext`), and what it answers is complete (`exec_completes`). -/
theorem everyCommandEndsInComplete : Obligations.EveryCommandEndsInComplete := by
  intro i s
  obtain ⟨t, h⟩ := exec_isNext i s
  exact ⟨t, h, exec_completes h⟩

/-- R200, R203: a command that ends with an error is the bare completion, which for FIX is BOUNDS; or it is FIX that has
classified the image as Unknown. -/
theorem Machine.exec_error_inv {i : Instr} {s t : State} (h : exec i s = .next t) (herr : t.err ≠ .none) :
    ((i = .fix → t.err = .bounds) ∧ t = s.complete t.err t.res) ∨
    (i = .fix ∧ classify (bootFingerprint s.image) = .unknown ∧
      t = s.ensureTable.classifyImage.complete .unidentified .unidentified) := by
  cases i with
  | nop => exact absurd (by simp [exec_nop_inv h]) herr
  | tblgen => exact absurd (by simp [exec_tblgen_inv h]) herr
  | fprint =>
    obtain ⟨-, rfl⟩ | ⟨-, rfl⟩ := exec_fprint_inv h
    · exact .inl ⟨nofun, rfl⟩
    · exact absurd rfl herr
  | classify =>
    obtain ⟨-, rfl⟩ | ⟨-, rfl⟩ := exec_classify_inv h
    · exact .inl ⟨nofun, rfl⟩
    · exact absurd rfl herr
  | cksum =>
    obtain ⟨-, rfl⟩ | ⟨-, -, rfl⟩ | ⟨-, c, -, rfl⟩ := exec_cksum_inv h
    case inr.inr => exact absurd rfl herr
    all_goals exact .inl ⟨nofun, rfl⟩
  | hdrfix =>
    obtain ⟨-, rfl⟩ | ⟨-, -, rfl⟩ | ⟨-, -, -, rfl⟩ | ⟨-, -, -, rfl⟩ := exec_hdrfix_inv h
    case inr.inl => exact absurd rfl herr
    all_goals exact .inl ⟨nofun, rfl⟩
  | fix =>
    obtain ⟨-, rfl⟩ | ⟨-, hid, rfl⟩ | ⟨-, c, -, rfl⟩ := exec_fix_inv h
    · exact .inl ⟨fun _ => rfl, rfl⟩
    · exact .inr ⟨rfl, hid, rfl⟩
    · exact absurd rfl herr

/-- Settles O33, by the two endings of `exec_error_inv`. -/
theorem errorsChangeOnlyStatus : Obligations.ErrorsChangeOnlyStatus := by
  intro i s t h herr
  obtain ⟨hfix, ht⟩ | ⟨rfl, hid, rfl⟩ := exec_error_inv h herr
  · refine ⟨by rw [ht]; rfl, fun _ => ht, fun hi hun => ?_⟩
    exact nomatch (hfix hi).symm.trans hun
  · refine ⟨by simp, fun hne => absurd hne (by simp), fun _ _ => ?_⟩
    rw [State.ensureTable_classifyImage_eq, ← bootFingerprint_eq_bytes, hid]
    rfl

/-- Settles O34, command by command: each branch of the completion step has one error code, and its premise excludes the
causes of the others. -/
theorem errorCodesByCauseAndPriority : Obligations.ErrorCodesByCauseAndPriority := by
  intro i s t h
  cases i with
  | nop => simp [exec_nop_inv h]
  | tblgen => simp [exec_tblgen_inv h]
  | fprint =>
    obtain ⟨hb, rfl⟩ | ⟨hb, rfl⟩ := exec_fprint_inv h
    · simp [hb]
    · simp [State.fprinted, hb]
  | classify =>
    obtain ⟨hb, rfl⟩ | ⟨hb, rfl⟩ := exec_classify_inv h <;> simp [hb]
  | cksum =>
    obtain ⟨hb, rfl⟩ | ⟨hb, hid, rfl⟩ | ⟨hb, c, hid, rfl⟩ := exec_cksum_inv h
    · simp [hb]
    · simp [hb, hid]
    · simp [hb, hid]
  | hdrfix =>
    obtain ⟨hb, rfl⟩ | ⟨hb, hcv, rfl⟩ | ⟨hb, hcv, hid, rfl⟩ | ⟨hb, hcv, ⟨c, hid⟩, rfl⟩ := exec_hdrfix_inv h
    · simp [hb]
    · simp [hb, hcv]
    · simp [hb, hcv, hid]
    · simp [hb, hcv, hid]
  | fix =>
    obtain ⟨hb, rfl⟩ | ⟨hb, hid, rfl⟩ | ⟨hb, c, hid, rfl⟩ := exec_fix_inv h
    · simp [hb]
    · simp [hb, hid]
    · simp [hb, hid]

/-! ### OVR -/

/-- R21: STATUS is the register at word address 1. -/
theorem Machine.regAt_eq_status {idx : BitVec 10} (h : regAt idx = .status) : idx = 1 := by
  by_cases hidx : 18 ≤ idx.toNat
  · rw [regAt_above idx hidx] at h
    split at h <;> exact nomatch h
  · have hsmall : ∀ k < 18, regAt (BitVec.ofNat 10 k) = .status → BitVec.ofNat 10 k = 1 := by decide
    simpa using hsmall idx.toNat (Nat.lt_of_not_le hidx) (by simpa using h)

/-- R25: a guarded write leaves OVR = 1 when it is turned away, and otherwise when its own effect does. -/
theorem Machine.State.unlessBusy_ovr {s t : State} (ht : t.ovr = true) : (s.unlessBusy t).ovr = true := by
  unfold State.unlessBusy
  split
  · rfl
  · exact ht

/-- R207: a register write keeps OVR = 1, except bit 8 written to STATUS. -/
theorem Machine.writeRegister_ovr {s : State} {r : Reg} {v : Word} (h : s.ovr = true)
    (hclear : r = .status → v.getLsbD 8 = false) : (s.writeRegister r v).ovr = true := by
  cases r
  case status => rw [State.writeRegister, State.writeStatus_ovr, h, hclear rfl]; rfl
  case cmd | id | imgLen | fpBase | fpLen => exact State.unlessBusy_ovr h
  all_goals exact h

/-- R207: the engine's turn keeps OVR. -/
theorem Machine.engineMove_ovr {s t : State} (h : engineMove s = .next t) : t.ovr = s.ovr := by
  obtain ⟨-, rfl⟩ | ⟨w, e, -, -, rfl⟩ | ⟨w, i, -, -, hx⟩ := engineMove_inv h
  · rfl
  · rfl
  · obtain ⟨⟨hovr, -⟩, -⟩ := registerFrameOfEveryCommand i s t hx
    exact hovr

/-- Settles O55, by the kinds of step of `step_effect`. -/
theorem overrunFlagIsSticky : Obligations.OverrunFlagIsSticky := by
  intro s t hstep hovr
  obtain ⟨rest, ⟨-, he⟩ | ⟨idx, v, hm, rfl⟩ | ⟨x, n, rfl⟩ | ⟨a, b, rfl⟩ | ⟨hm, -⟩⟩ := step_effect hstep
  · exact .inl ((engineMove_ovr he).trans hovr)
  · by_cases hclear : idx = 1 ∧ v.getLsbD 8 = true
    · obtain ⟨rfl, hv⟩ := hclear
      exact .inr (.inr ⟨v, rest, hm, hv⟩)
    · refine .inl (writeRegister_ovr (s := { s with moves := rest }) hovr fun hr => ?_)
      exact Bool.eq_false_iff.2 fun hv => hclear ⟨regAt_eq_status hr, hv⟩
  · exact .inl hovr
  · exact .inl hovr
  · exact .inr (.inl ⟨rest, hm⟩)

/-! ### The idle block -/

/-- R216: with nothing pending the engine's turn changes nothing. -/
theorem Machine.engineMove_of_idle {s : State} (hp : s.pending = none) : engineMove s = .next s := by
  simp [engineMove, hp]

/-- Settles O5: the engine moves in both clauses, and it is idle. -/
theorem idleStepChangesNothing : Obligations.IdleStepChangesNothing := by
  intro s hp
  refine ⟨fun hm => ?_, fun rest hm => ?_⟩
  · rw [step_of_moves_nil hm, engineMove_of_idle hp]
  · rw [step_of_moves_cons hm]
    exact engineMove_of_idle (s := { s with moves := rest }) hp

end Sys2Proof
end

section
/-! Proofs of family 70_reset_and_hazards.md: every accepted command completes (O7), a reset event while BUSY = 0 and
while BUSY = 1 (O48, O49), and the invariant at reset (O51). `run_before` says once what a run over the first moves of the
list comes to: the race, or a state with the rest of the list to come and whatever those moves keep. -/

namespace Sys2Proof

namespace Machine

variable {s t : State}

/-! ### BUSY and PENDING -/

/-- R25: a guarded write that would keep BUSY and PENDING keeps them, turned away or not. -/
theorem State.unlessBusy_keeps_pending (h : t.busy = s.busy ∧ t.pending = s.pending) :
    (s.unlessBusy t).busy = s.busy ∧ (s.unlessBusy t).pending = s.pending := by
  unfold State.unlessBusy
  split
  · exact ⟨rfl, rfl⟩
  · exact h

/-- R26, R45: a register write accepts a command word while BUSY = 0, or keeps BUSY and PENDING. -/
theorem writeRegister_accepts_or_keeps (s : State) (r : Reg) (v : Word) :
    (s.busy = false ∧ s.writeRegister r v = s.accept v) ∨
    ((s.writeRegister r v).busy = s.busy ∧ (s.writeRegister r v).pending = s.pending) := by
  cases r
  case cmd =>
    cases hb : s.busy with
    | false => exact .inl ⟨rfl, State.unlessBusy_idle _ _ hb⟩
    | true => rw [State.writeRegister, State.unlessBusy_busy _ _ hb]; exact .inr ⟨hb, rfl⟩
  case id | imgLen | fpBase | fpLen => exact .inr (State.unlessBusy_keeps_pending ⟨rfl, rfl⟩)
  all_goals exact .inr ⟨rfl, rfl⟩

/-- R200, R216: where BUSY agrees with PENDING, the engine's turn leaves BUSY = 0 and nothing pending. -/
theorem engineMove_leaves_idle (hs : s.busy = s.pending.isSome) (h : engineMove s = .next t) :
    t.busy = false ∧ t.pending = none := by
  obtain ⟨hp, rfl⟩ | ⟨w, e, -, -, rfl⟩ | ⟨w, i, -, -, hx⟩ := engineMove_inv h
  · exact ⟨by rw [hs, hp]; rfl, hp⟩
  · exact ⟨rfl, rfl⟩
  · obtain ⟨hpend, hbusy, -⟩ := exec_completes hx
    exact ⟨hbusy, hpend⟩

/-- R45, R200: every step keeps BUSY in agreement with PENDING. -/
theorem step_keeps_busy_eq_pending (h : step s = .next t) (hs : s.busy = s.pending.isSome) :
    t.busy = t.pending.isSome := by
  obtain ⟨rest, ⟨-, he⟩ | ⟨idx, v, -, rfl⟩ | ⟨x, n, rfl⟩ | ⟨a, b, rfl⟩ | ⟨-, rfl⟩⟩ := step_effect h
  · obtain ⟨hbusy, hpend⟩ := engineMove_leaves_idle (s := { s with moves := rest }) hs he
    rw [hbusy, hpend]; rfl
  · obtain ⟨-, haccept⟩ | ⟨hbusy, hpend⟩ := writeRegister_accepts_or_keeps { s with moves := rest } (regAt idx) v
    · rw [haccept]; rfl
    · rw [hbusy, hpend]; exact hs
  · exact hs
  · exact hs
  · rfl

/-- R26, R45: while BUSY = 1 a host access keeps the command pending. -/
theorem step_keeps_pending {m : Move} {rest : List Move} (hm : s.moves = m :: rest) (hhost : m ≠ .engine ∧ m ≠ .reset)
    (hb : s.busy = true) (h : step s = .next t) : t.busy = true ∧ t.pending = s.pending := by
  obtain ⟨hengine, hreset⟩ := hhost
  obtain ⟨rest', ⟨hnil | hcons, -⟩ | ⟨idx, v, -, rfl⟩ | ⟨x, n, rfl⟩ | ⟨a, b, rfl⟩ | ⟨hcons, -⟩⟩ := step_effect h
  · exact nomatch hnil.symm.trans hm
  · exact absurd (List.cons.inj (hm.symm.trans hcons)).1 hengine
  · obtain ⟨hidle, -⟩ | ⟨hbusy, hpend⟩ := writeRegister_accepts_or_keeps { s with moves := rest' } (regAt idx) v
    · exact nomatch hidle.symm.trans hb
    · exact ⟨hbusy.trans hb, hpend⟩
  · exact ⟨hb, rfl⟩
  · exact ⟨hb, rfl⟩
  · exact absurd (List.cons.inj (hm.symm.trans hcons)).1 hreset

/-! ### The list of moves -/

/-- The engine's turn takes no move off the list. -/
theorem engineMove_moves (h : engineMove s = .next t) : t.moves = s.moves := by
  obtain ⟨-, rfl⟩ | ⟨w, e, -, -, rfl⟩ | ⟨w, i, -, -, hx⟩ := engineMove_inv h
  · rfl
  · rfl
  · obtain ⟨⟨-, -, -, -, -, hmoves, -⟩, -⟩ := registerFrameOfEveryCommand i s t hx
    exact hmoves

/-- A step takes the first move off the list. -/
theorem step_moves (h : step s = .next t) : t.moves = s.moves.tail := by
  obtain ⟨hm, he⟩ | ⟨rest, hm, he⟩ | ⟨idx, v, rest, hm, rfl⟩ | ⟨idx, rest, hm, rfl⟩ | ⟨a, b, rest, hm, -, rfl⟩ |
    ⟨a, rest, hm, rfl⟩ | ⟨rest, hm, rfl⟩ := step_inv h <;> rw [hm]
  · rw [engineMove_moves he, hm, List.tail_nil]
  · exact engineMove_moves he
  · obtain ⟨-, -, -, -, -, -, -, -, -, hmoves, -⟩ := writeRegister_frame { s with moves := rest } (regAt idx) v
    exact hmoves
  · rw [readRegister_eq]; rfl
  · rfl
  · obtain ⟨x, n, hx⟩ := State.hostReadByte_eq_logReading { s with moves := rest } a
    rw [hx]; rfl
  · rfl

/-- The engine moves where the list says so, and when no move is left (log entries 1 and 11). -/
theorem step_of_engine_turn {rest : List Move} (hm : s.moves = .engine :: rest ∨ s.moves = [] ∧ rest = []) :
    step s = engineMove { s with moves := rest } := by
  obtain hm | ⟨hm, rfl⟩ := hm
  · exact step_of_moves_cons hm
  · rw [step_of_moves_nil hm, ← hm]

/-! ### Runs -/

/-- R205, R210: a step answers with the race or with a next state. -/
theorem step_race_or_next (s : State) : step s = .fault .imageRace ∨ ∃ t, step s = .next t := by
  obtain ⟨hrace, hnext⟩ := onlyTheHostRaceStopsTheMachine s
  exact (Classical.em s.raceNext).imp hrace hnext

/-- A run goes on from the next state of its first step. -/
theorem run_of_step_next (n : Nat) (h : step s = .next t) : run (n + 1) s = run n t := by rw [run, h]

/-- A run whose first step is a fault ends in that fault. -/
theorem run_of_step_fault (n : Nat) {f : Fault} (h : step s = .fault f) : run (n + 1) s = .fault f := by rw [run, h]

/-- A run that has ended in a fault does not leave it. -/
theorem run_succ_fault {n : Nat} {f : Fault} (h : run n s = .fault f) : run (n + 1) s = .fault f := by
  induction n generalizing s with
  | zero => exact nomatch h
  | succ n ih =>
    obtain hs | ⟨t, hs⟩ := step_race_or_next s
    · exact (run_of_step_fault _ hs).trans ((run_of_step_fault n hs).symm.trans h)
    · rw [run_of_step_next _ hs] at h ⊢; exact ih h

/-- A run over the first moves of the list is a race, or leaves the rest of the list and keeps `P`, where those moves
keep it. -/
theorem run_before {P : State → Prop} {before rest : List Move}
    (hkeep : ∀ {s t m l}, m ∈ before → s.moves = m :: l → P s → step s = .next t → P t)
    (hm : s.moves = before ++ rest) (hP : P s) :
    run before.length s = .fault .imageRace ∨ ∃ u, run before.length s = .next u ∧ P u ∧ u.moves = rest := by
  induction before generalizing s with
  | nil => exact .inr ⟨s, rfl, hP, hm⟩
  | cons m before ih =>
    obtain hs | ⟨t, hs⟩ := step_race_or_next s
    · exact .inl (run_of_step_fault _ hs)
    · rw [List.length_cons, run_of_step_next _ hs]
      exact ih (fun hmem => hkeep (List.mem_cons_of_mem m hmem)) (by rw [step_moves hs, hm]; rfl)
        (hkeep List.mem_cons_self hm hP hs)

/-- R248: where BUSY agrees with PENDING, a run over all the moves and one engine's turn more ends in the race or idle. -/
theorem run_all_ends_idle (hs : s.busy = s.pending.isSome) :
    run (s.moves.length + 1) s = .fault .imageRace ∨
    ∃ t, run (s.moves.length + 1) s = .next t ∧ t.busy = false ∧ t.pending = none ∧ t.moves = [] := by
  obtain hrace | ⟨u, hrun, hu, hmoves⟩ := run_before (P := fun s => s.busy = s.pending.isSome)
    (fun _ _ hs h => step_keeps_busy_eq_pending h hs) s.moves.append_nil.symm hs
  · exact .inl (run_succ_fault hrace)
  · obtain ⟨t, ht⟩ := engineMove_isNext u
    obtain ⟨hbusy, hpend⟩ := engineMove_leaves_idle hu ht
    exact .inr ⟨t, by rw [run_succ_next hrun, step_of_moves_nil hmoves, ht], hbusy, hpend,
      (engineMove_moves ht).trans hmoves⟩

/-- R45: host accesses run to the race, or leave the command pending. -/
theorem run_host_keeps_pending {w : Word} {before rest : List Move} (hb : s.busy = true) (hp : s.pending = some w)
    (hhost : ∀ m ∈ before, m ≠ .engine ∧ m ≠ .reset) (hm : s.moves = before ++ rest) :
    run before.length s = .fault .imageRace ∨
    ∃ u, run before.length s = .next u ∧ (u.busy = true ∧ u.pending = some w) ∧ u.moves = rest :=
  run_before (P := fun s => s.busy = true ∧ s.pending = some w)
    (fun hmem hm ⟨hb, hp⟩ h => (step_keeps_pending hm (hhost _ hmem) hb h).imp_right (·.trans hp)) hm ⟨hb, hp⟩

/-! ### The reset event -/

/-- R230: while BUSY = 0 the image stays and no draw is taken. -/
theorem State.resetEvent_of_idle (hb : s.busy = false) : s.resetEvent = { State.reset with
    image := s.image, moves := s.moves, readings := s.readings, draws := s.draws } := by
  simp [State.resetEvent, hb]

/-- R231: while BUSY = 1 the eight header bytes are drawn. -/
theorem State.resetEvent_of_busy (hb : s.busy = true) : s.resetEvent = { State.reset with
    image := drawHeader s.image s.afterPending.image s.draws 8, moves := s.moves, readings := s.readings
    draws := s.draws + 8 } := by
  simp [State.resetEvent, hb]

end Machine

open Machine

/-- Settles O7: a run over all moves by `run_all_ends_idle`; a run over host accesses by `run_host_keeps_pending`, and then
the engine's turn, which completes the word still pending. -/
theorem everyAcceptedCommandCompletes : Obligations.EveryAcceptedCommandCompletes := by
  refine ⟨fun s hs => run_all_ends_idle hs, fun s w before later hb hp hhost hm => ?_⟩
  obtain ⟨rest, hm, hturn⟩ : ∃ rest, s.moves = before ++ rest ∧ (rest = .engine :: later ∨ rest = [] ∧ later = []) := by
    obtain hm | ⟨hm, hlater⟩ := hm
    · exact ⟨_, hm, .inl rfl⟩
    · exact ⟨[], by rw [hm, List.append_nil], .inr ⟨rfl, hlater⟩⟩
  obtain hrace | ⟨u, hrun, ⟨hub, hup⟩, rfl⟩ := run_host_keeps_pending hb hp hhost hm
  · exact .inl (run_succ_fault hrace)
  · obtain ⟨t, ht⟩ := engineMove_isNext { u with moves := later }
    obtain ⟨hbusy, hpend⟩ := engineMove_leaves_idle (s := { u with moves := later }) (by simp [hub, hup]) ht
    obtain ⟨hdone, -⟩ := engineMove_completes (s := { u with moves := later }) hup ht
    refine .inr ⟨u, t, hrun, hub, hup, by rw [run_succ_next hrun, step_of_engine_turn hturn, ht], fun i hd => ?_,
      fun e hd => ?_, hdone, hbusy, hpend, engineMove_moves ht⟩
    · rw [← ht, engineMove_of_decode (s := { u with moves := later }) hup hd]
    · rw [engineMove_of_illegal (s := { u with moves := later }) hup hd] at ht
      exact (Host.Outcome.next.inj ht).symm

/-- Settles O49: the image is the header mix of `State.resetEvent_of_busy`, between the old image and the one of
`State.afterPending`, which is the engine's next state. -/
theorem resetDuringACommand : Obligations.ResetDuringACommand := by
  intro s rest hm hb
  refine ⟨_, _, engineMove_afterPending { s with moves := rest }, ?_,
    fun a ha => readByte_drawHeader_outside _ _ _ 8 a ha,
    fun hwf a h1 h2 => readByte_drawHeader_inside _ _ s.draws 8 a (Nat.le_refl 8) hwf h1 h2⟩
  rw [step_of_moves_cons hm]
  exact congrArg _ (State.resetEvent_of_busy (s := { s with moves := rest }) hb)

/-- Settles O48: the step is `State.resetEvent_of_idle`. -/
theorem resetWhileIdle : Obligations.ResetWhileIdle := by
  intro s rest hm hb
  rw [step_of_moves_cons hm]
  exact congrArg _ (State.resetEvent_of_idle (s := { s with moves := rest }) hb)

/-- Settles O51: the image is empty, and every flag and outcome field is clear. -/
theorem resetSatisfiesTheInvariant : Obligations.ResetSatisfiesTheInvariant where
  image_wf := rfl
  busy_pending := rfl
  cv_known := nofun
  tv_built := nofun
  busy_clear := nofun
  outcome := .of_compareClear ⟨rfl, rfl, rfl, rfl⟩ nofun nofun

end Sys2Proof
end
